-- ==== Sys2Proof/Word.lean ====
section
/-! DEFINITION. The value types of the block: bytes of a presented command, 32-bit packets and pin identifiers. -/

namespace Sys2Proof

/-- One byte of a command as the caller presents it (the model's own layout, log 6). -/
abbrev Byte := BitVec 8

/-- A packet: an opaque 32-bit value outside the codec (00_scope.md R9, 30_encoding.md R59). -/
abbrev Packet := BitVec 32

/-- A pin identifier: an opaque name (10_state.md R25). The spec gives it no type and no range and forbids taking it
for a small integer (91 N12), so it is a type of its own with no order, no arithmetic, no bits and no bound: it is
stored, compared and handed to the pin interface, and the label only tells one name from another (log 17). -/
structure PinId where
  label : Nat
deriving DecidableEq, Repr

/-- The place-holder for a pin that has no value yet (10_state.md R36; log 3). -/
def PinId.unnamed : PinId := ⟨0⟩

end Sys2Proof
end

