-- ==== Sys2Proof/Config.lean ====
section
/-! DEFINITION. The parameters that 00_scope.md R5 leaves OPEN, as plain data a State carries, and the free values: values the spec says are unspecified, as constants with no body. -/

namespace Sys2Proof

/-- `IDX_W`, the width of a chain index: "8-bit or 16-bit" (00_scope.md R5, 10_state.md R17). -/
inductive IdxWidth where
  | w8
  | w16
deriving DecidableEq, Repr

/-- The width in bits. -/
def IdxWidth.bits : IdxWidth → Nat
  | .w8 => 8
  | .w16 => 16

/-- The OPEN parameters of 00_scope.md R5 (log 5), and one the model adds: `wired`, how many chips are really wired,
`none` for as many as the chain length says (10_state.md R29, 70_reset_and_hazards.md R178; log 11). No step changes
them. -/
structure Config where
  /-- `IDX_W` -/
  idxW : IdxWidth
  /-- `CAPACITY`, the number of 32-bit slots of storage (10_state.md R22) -/
  capacity : Nat
  /-- `IN_W` above its least value 10 (00_scope.md R5, 40_packet_codec.md R83): read it as `Config.inW` -/
  inAbove : Nat
  /-- `COUNT_W`, the width of `sent_count` (10_state.md R27) -/
  countW : Nat
  /-- `T_SETTLE` in microseconds (42_chain_controller.md R127) -/
  tSettle : Nat
  /-- `T_LATCH` in microseconds (42_chain_controller.md R125) -/
  tLatch : Nat
  /-- number of chips really wired -/
  wired : Option Nat
deriving DecidableEq, Repr

/-- `IN_W`, the width of a numeric operand of the builders: "at least 10" (00_scope.md R5, 40_packet_codec.md R83), so
that no configuration cuts an operand below the width of its field. -/
def Config.inW (cfg : Config) : Nat := 10 + cfg.inAbove

/-- The defaults of 00_scope.md R5, with `IDX_W = 8` as in 95_test_vectors.md (DESIGN CHOICE, log 5). -/
def Config.standard : Config where
  idxW := .w8
  capacity := 255
  inAbove := 6
  countW := 16
  tSettle := 0
  tLatch := 0
  wired := none

/-- FREE VALUE. `freeSlot d i`: what ring slot `i` holds at the allocation numbered `d` (10_state.md R21; log 10). -/
opaque Config.freeSlot : Nat → Nat → Packet

/-- FREE VALUE. `freeCount d`: `sent_count` after the NEW_CHAIN numbered `d` (10_state.md R36; log 2). -/
opaque Config.freeCount : Nat → Nat

/-- FREE VALUE. `freeShift d k`: the shift register of chip `k` when nothing is known of it (10_state.md R36; log 11). -/
opaque Config.freeShift : Nat → Nat → Packet

/-- FREE VALUE. `freeOut d k`: the active output of chip `k` when nothing is known of it (10_state.md R36; log 11). -/
opaque Config.freeOut : Nat → Nat → Packet

end Sys2Proof
end

