-- ==== Sys2Proof/Syntax.lean ====
section
/-! DEFINITION. The instructions: one constructor for each of the 28 rows of spec/opcode_table.json, two packet formats and 26 operations (30_encoding.md R60, R63, R74, R76). -/

namespace Sys2Proof

/-- The rows of the opcode table with their operands (30_encoding.md R76). A numeric operand whose width is a
parameter (`IN_W`, `IDX_W`) is a Nat, and `WellFormed` says when it fits its port; a pin is an opaque `PinId`. -/
inductive Instr where
  /-- PKT.PWM: a packet word in the PWM format, every bit named (30_encoding.md R60) -/
  | pktPwm (unused : BitVec 1) (ch2 ch1 ch0 : BitVec 10)
  /-- PKT.CORR: a packet word in the correction format, every bit named (30_encoding.md R63) -/
  | pktCorr (unused atb1 atb0 pad27 : BitVec 1) (correct2 : BitVec 7) (pad19 : BitVec 3) (correct1 : BitVec 7)
      (pad9 : BitVec 1) (clockMode : BitVec 2) (correct0 : BitVec 7)
  /-- BUILD_PWM, code 0x00 -/
  | buildPwm (ch0 ch1 ch2 : Nat)
  /-- BUILD_CORR, code 0x01 -/
  | buildCorr (c0 c1 c2 clockMode : Nat)
  /-- RAW_VALUE, code 0x02 -/
  | rawValue (p : Packet)
  /-- MODE_OF, code 0x03 -/
  | modeOf (p : Packet)
  /-- PWM_VIEW, code 0x04 -/
  | pwmView (p : Packet)
  /-- CORR_VIEW, code 0x05 -/
  | corrView (p : Packet)
  /-- DECODE, code 0x06 -/
  | decodeView (p : Packet)
  /-- SET_TRACKING, code 0x08 -/
  | setTracking (b : Bool)
  /-- TRK_WRITE, code 0x09, internal -/
  | trkWrite (p : Packet)
  /-- GET_STATE, code 0x0A -/
  | getState (index : Nat)
  /-- SAVE_STATE, code 0x0B -/
  | saveState
  /-- RESTORE_STATE, code 0x0C -/
  | restoreState (ps : List Packet)
  /-- NEW_CHAIN, code 0x10 -/
  | newChain (length : Nat) (autoUpdate : Bool)
  /-- SETUP3, code 0x11 -/
  | setup3 (dataPin clockPin latchPin : PinId)
  /-- SETUP4, code 0x12 -/
  | setup4 (dataPin clockPin latchPin notEnablePin : PinId)
  /-- GET_AUTO, code 0x13 -/
  | getAuto
  /-- SET_AUTO, code 0x14 -/
  | setAuto (b : Bool)
  /-- SET_ENABLED, code 0x15 -/
  | setEnabled (active : Bool)
  /-- BEGIN_UPDATE, code 0x16 -/
  | beginUpdate
  /-- END_UPDATE, code 0x17 -/
  | endUpdate
  /-- TRANSMIT, code 0x18, internal -/
  | transmit (p : Packet) (n : Nat)
  /-- SEND_PACKET, code 0x19 -/
  | sendPacket (p : Packet) (n : Nat)
  /-- SEND_PACKETS, code 0x1A -/
  | sendPackets (ps : List Packet)
  /-- SEND_ALL, code 0x1B -/
  | sendAll (p : Packet)
  /-- SEND_PWM, code 0x1C -/
  | sendPwm (ch0 ch1 ch2 : Nat)
  /-- SEND_CORR, code 0x1D -/
  | sendCorr (c0 c1 c2 clockMode : Nat)
deriving DecidableEq, Repr

/-- `SEND_PACKET(p)`, which means `SEND_PACKET(p, 1)` (30_encoding.md R77). -/
def Instr.sendPacketOnce (p : Packet) : Instr := .sendPacket p 1

/-- TRK_WRITE and TRANSMIT are performed only by the controller inside a send, never by the caller
(30_encoding.md R75, 41_ring_tracker.md R113). -/
def Instr.internal : Instr → Bool
  | .trkWrite _ => true
  | .transmit _ _ => true
  | .pktPwm _ _ _ _ => false
  | .pktCorr _ _ _ _ _ _ _ _ _ _ => false
  | .buildPwm _ _ _ => false
  | .buildCorr _ _ _ _ => false
  | .rawValue _ => false
  | .modeOf _ => false
  | .pwmView _ => false
  | .corrView _ => false
  | .decodeView _ => false
  | .setTracking _ => false
  | .getState _ => false
  | .saveState => false
  | .restoreState _ => false
  | .newChain _ _ => false
  | .setup3 _ _ _ => false
  | .setup4 _ _ _ _ => false
  | .getAuto => false
  | .setAuto _ => false
  | .setEnabled _ => false
  | .beginUpdate => false
  | .endUpdate => false
  | .sendPacket _ _ => false
  | .sendPackets _ => false
  | .sendAll _ => false
  | .sendPwm _ _ _ => false
  | .sendCorr _ _ _ _ => false

end Sys2Proof
end

