-- ==== Sys2Proof/WellFormed.lean ====
section
/-! DEFINITION. When an instruction's operands fit the ports that carry them (30_encoding.md R76, 00_scope.md R5). A repeat count or a length of 0 fits its port: it is the operation that refuses it (60_exceptions.md R148). -/

namespace Sys2Proof

/-- The operand fits `IN_W` bits (40_packet_codec.md R83). -/
def Config.inFits (cfg : Config) (v : Nat) : Bool := decide (v < 2 ^ cfg.inW)

/-- The operand fits `IDX_W` bits: an index, a repeat count, a length (30_encoding.md R76). -/
def Config.idxFits (cfg : Config) (v : Nat) : Bool := decide (v < 2 ^ cfg.idxW.bits)

/-- Every operand of the instruction fits its port. -/
def Instr.wf (cfg : Config) : Instr → Bool
  | .pktPwm _ _ _ _ => true
  | .pktCorr _ _ _ _ _ _ _ _ _ _ => true
  | .buildPwm ch0 ch1 ch2 => cfg.inFits ch0 && cfg.inFits ch1 && cfg.inFits ch2
  | .buildCorr c0 c1 c2 m => cfg.inFits c0 && cfg.inFits c1 && cfg.inFits c2 && cfg.inFits m
  | .rawValue _ => true
  | .modeOf _ => true
  | .pwmView _ => true
  | .corrView _ => true
  | .decodeView _ => true
  | .setTracking _ => true
  | .trkWrite _ => true
  | .getState index => cfg.idxFits index
  | .saveState => true
  | .restoreState ps => cfg.idxFits ps.length
  | .newChain length _ => cfg.idxFits length
  | .setup3 _ _ _ => true
  | .setup4 _ _ _ _ => true
  | .getAuto => true
  | .setAuto _ => true
  | .setEnabled _ => true
  | .beginUpdate => true
  | .endUpdate => true
  | .transmit _ n => cfg.idxFits n
  | .sendPacket _ n => cfg.idxFits n
  | .sendPackets ps => cfg.idxFits ps.length
  | .sendAll _ => true
  | .sendPwm ch0 ch1 ch2 => cfg.inFits ch0 && cfg.inFits ch1 && cfg.inFits ch2
  | .sendCorr c0 c1 c2 m => cfg.inFits c0 && cfg.inFits c1 && cfg.inFits c2 && cfg.inFits m

end Sys2Proof
end

