-- ==== Sys2Proof/Decode.lean ====
section
/-! DEFINITION. What the caller presents, the packet layout (30_encoding.md part A), the decoder of the operation codes (R74, R75) and of packet words (R70), and after it the encoder. Total on any bytes; rejects by name. -/

namespace Sys2Proof

/-! ## What is presented -/

/-- What the caller puts at the block: an operation at the command port, as bytes in the model's own layout (the
op code in bits 4:0 of the first byte, then the numeric operand ports in the order of 30_encoding.md R76; log 6) and,
beside them, the pin ports, which carry pin identifiers and no bits (R76, 10_state.md R25; log 17); or a packet word at
the codec (30_encoding.md R70; log 7). -/
inductive Presented where
  | command (bytes : List Byte) (pins : List PinId)
  | packet (w : Packet)
deriving DecidableEq, Repr

/-- Why nothing could be decoded. -/
inductive DecodeError where
  /-- the code selects no operation (30_encoding.md R75) -/
  | reservedOp (code : BitVec 5)
  /-- fewer operand bits or pins than the operation's ports have (log 20) -/
  | truncated
deriving DecidableEq, Repr

/-! ## The packet layout -/

/-- `p[lo+w-1:lo]` (00_scope.md R6). -/
def slice (p : Packet) (lo w : Nat) : BitVec w := p.extractLsb' lo w

/-- `MODE_BIT` (30_encoding.md R61). -/
def modeBit : Nat := 30

/-- `MODE_PWM` (30_encoding.md R62). -/
def modePwm : BitVec 1 := 0#1

/-- `MODE_CORR` (30_encoding.md R62). -/
def modeCorr : BitVec 1 := 1#1

/-- The bit offsets of the PWM fields (30_encoding.md R60). -/
def ch0At : Nat := 0
@[inherit_doc ch0At] def ch1At : Nat := 10
@[inherit_doc ch0At] def ch2At : Nat := 20

/-- The bit offsets of the correction fields (30_encoding.md R63). -/
def correct0At : Nat := 0
@[inherit_doc correct0At] def clockModeAt : Nat := 7
@[inherit_doc correct0At] def pad9At : Nat := 9
@[inherit_doc correct0At] def correct1At : Nat := 10
@[inherit_doc correct0At] def pad19At : Nat := 17
@[inherit_doc correct0At] def correct2At : Nat := 20
@[inherit_doc correct0At] def pad27At : Nat := 27
@[inherit_doc correct0At] def atb0At : Nat := 28
@[inherit_doc correct0At] def atb1At : Nat := 29

/-- Bit 31, in neither format (30_encoding.md R65). -/
def unusedAt : Nat := 31

/-- The format of a packet word, from the mode flag alone (30_encoding.md R70). -/
def decodePacket (p : Packet) : Instr :=
  if slice p modeBit 1 = modePwm then
    .pktPwm (slice p unusedAt 1) (slice p ch2At 10) (slice p ch1At 10) (slice p ch0At 10)
  else
    .pktCorr (slice p unusedAt 1) (slice p atb1At 1) (slice p atb0At 1) (slice p pad27At 1) (slice p correct2At 7)
      (slice p pad19At 3) (slice p correct1At 7) (slice p pad9At 1) (slice p clockModeAt 2) (slice p correct0At 7)

/-- The word of a PWM packet, bit 31 first (30_encoding.md R60). -/
def pwmWord (unused : BitVec 1) (ch2 ch1 ch0 : BitVec 10) : Packet :=
  unused ++ modePwm ++ ch2 ++ ch1 ++ ch0

/-- The word of a correction packet, bit 31 first (30_encoding.md R63). -/
def corrWord (unused atb1 atb0 pad27 : BitVec 1) (correct2 : BitVec 7) (pad19 : BitVec 3) (correct1 : BitVec 7)
    (pad9 : BitVec 1) (clockMode : BitVec 2) (correct0 : BitVec 7) : Packet :=
  unused ++ modeCorr ++ atb1 ++ atb0 ++ pad27 ++ correct2 ++ pad19 ++ correct1 ++ pad9 ++ clockMode ++ correct0

/-! ## Operand ports as bytes -/

/-- `k` bytes of a number, least significant first (the model's layout, log 6). -/
def leBytes : Nat → Nat → List Byte
  | 0, _ => []
  | k + 1, v => BitVec.ofNat 8 v :: leBytes k (v / 256)

/-- The number that bytes stand for, least significant first. -/
def leValue : List Byte → Nat
  | [] => 0
  | b :: bs => b.toNat + 256 * leValue bs

/-- How many bytes a port of `w` bits takes. -/
def portBytes (w : Nat) : Nat := (w + 7) / 8

/-- A port of `w` bits holding `v`. -/
def putNat (w v : Nat) : List Byte := leBytes (portBytes w) v

/-- A packet port. -/
def putPacket (p : Packet) : List Byte := putNat 32 p.toNat

/-- A Bool port, 1 for true (30_encoding.md R76). -/
def putBool (b : Bool) : List Byte := putNat 1 (if b then 1 else 0)

/-- A sequence port: its length in `IDX_W` bits, then its packets, element 0 first (30_encoding.md R76, R80). -/
def putSeq (cfg : Config) (ps : List Packet) : List Byte :=
  putNat cfg.idxW.bits ps.length ++ ps.flatMap putPacket

/-- Take `k` bytes off the front. -/
def takeBytes : Nat → List Byte → Option (List Byte × List Byte)
  | 0, bs => some ([], bs)
  | _ + 1, [] => none
  | k + 1, b :: bs =>
    match takeBytes k bs with
    | none => none
    | some (xs, rest) => some (b :: xs, rest)

/-- Read a port of `w` bits. -/
def getNat (w : Nat) (bs : List Byte) : Option (Nat × List Byte) :=
  match takeBytes (portBytes w) bs with
  | none => none
  | some (xs, rest) => some (leValue xs % 2 ^ w, rest)

/-- Read a packet port. -/
def getPacket (bs : List Byte) : Option (Packet × List Byte) :=
  match getNat 32 bs with
  | none => none
  | some (v, rest) => some (BitVec.ofNat 32 v, rest)

/-- Read a Bool port. -/
def getBool (bs : List Byte) : Option (Bool × List Byte) :=
  match getNat 1 bs with
  | none => none
  | some (v, rest) => some (v != 0, rest)

/-- Read `n` packets. -/
def getPackets : Nat → List Byte → Option (List Packet × List Byte)
  | 0, bs => some ([], bs)
  | n + 1, bs =>
    match getPacket bs with
    | none => none
    | some (p, rest) =>
      match getPackets n rest with
      | none => none
      | some (ps, rest') => some (p :: ps, rest')

/-- Read a sequence port. -/
def getSeq (cfg : Config) (bs : List Byte) : Option (List Packet × List Byte) :=
  match getNat cfg.idxW.bits bs with
  | none => none
  | some (n, rest) => getPackets n rest

/-- Read a pin port (30_encoding.md R76; log 17). -/
def getPin : List PinId → Option (PinId × List PinId)
  | [] => none
  | p :: rest => some (p, rest)

/-! ## The decoder of operations -/

/-- The operands were all there, or the command is too short. -/
def orTruncated : Option Instr → Except DecodeError Instr
  | some i => .ok i
  | none => .error .truncated

/-- The operands of the operation that `code` selects (30_encoding.md R74, R76); what stands after them is on no
port of the operation and is not read. -/
def decodeOp (cfg : Config) (code : Nat) (bs : List Byte) (pins : List PinId) : Except DecodeError Instr :=
  match code with
  | 0x00 => orTruncated do
      let (a, bs) ← getNat cfg.inW bs
      let (b, bs) ← getNat cfg.inW bs
      let (c, _) ← getNat cfg.inW bs
      return .buildPwm a b c
  | 0x01 => orTruncated do
      let (a, bs) ← getNat cfg.inW bs
      let (b, bs) ← getNat cfg.inW bs
      let (c, bs) ← getNat cfg.inW bs
      let (m, _) ← getNat cfg.inW bs
      return .buildCorr a b c m
  | 0x02 => orTruncated do
      let (p, _) ← getPacket bs
      return .rawValue p
  | 0x03 => orTruncated do
      let (p, _) ← getPacket bs
      return .modeOf p
  | 0x04 => orTruncated do
      let (p, _) ← getPacket bs
      return .pwmView p
  | 0x05 => orTruncated do
      let (p, _) ← getPacket bs
      return .corrView p
  | 0x06 => orTruncated do
      let (p, _) ← getPacket bs
      return .decodeView p
  | 0x08 => orTruncated do
      let (b, _) ← getBool bs
      return .setTracking b
  | 0x09 => orTruncated do
      let (p, _) ← getPacket bs
      return .trkWrite p
  | 0x0A => orTruncated do
      let (k, _) ← getNat cfg.idxW.bits bs
      return .getState k
  | 0x0B => .ok .saveState
  | 0x0C => orTruncated do
      let (ps, _) ← getSeq cfg bs
      return .restoreState ps
  | 0x10 => orTruncated do
      let (n, bs) ← getNat cfg.idxW.bits bs
      let (b, _) ← getBool bs
      return .newChain n b
  | 0x11 => orTruncated do
      let (d, pins) ← getPin pins
      let (c, pins) ← getPin pins
      let (l, _) ← getPin pins
      return .setup3 d c l
  | 0x12 => orTruncated do
      let (d, pins) ← getPin pins
      let (c, pins) ← getPin pins
      let (l, pins) ← getPin pins
      let (e, _) ← getPin pins
      return .setup4 d c l e
  | 0x13 => .ok .getAuto
  | 0x14 => orTruncated do
      let (b, _) ← getBool bs
      return .setAuto b
  | 0x15 => orTruncated do
      let (b, _) ← getBool bs
      return .setEnabled b
  | 0x16 => .ok .beginUpdate
  | 0x17 => .ok .endUpdate
  | 0x18 => orTruncated do
      let (p, bs) ← getPacket bs
      let (n, _) ← getNat cfg.idxW.bits bs
      return .transmit p n
  | 0x19 => orTruncated do
      let (p, bs) ← getPacket bs
      let (n, _) ← getNat cfg.idxW.bits bs
      return .sendPacket p n
  | 0x1A => orTruncated do
      let (ps, _) ← getSeq cfg bs
      return .sendPackets ps
  | 0x1B => orTruncated do
      let (p, _) ← getPacket bs
      return .sendAll p
  | 0x1C => orTruncated do
      let (a, bs) ← getNat cfg.inW bs
      let (b, bs) ← getNat cfg.inW bs
      let (c, _) ← getNat cfg.inW bs
      return .sendPwm a b c
  | 0x1D => orTruncated do
      let (a, bs) ← getNat cfg.inW bs
      let (b, bs) ← getNat cfg.inW bs
      let (c, bs) ← getNat cfg.inW bs
      let (m, _) ← getNat cfg.inW bs
      return .sendCorr a b c m
  | code => .error (.reservedOp (BitVec.ofNat 5 code))

/-- Decode what is presented. The command port has `OP_W = 5` select bits (00_scope.md R5), so the upper bits of the
first byte are on no wire and are not read (log 6). -/
def decode (cfg : Config) : Presented → Except DecodeError Instr
  | .packet w => .ok (decodePacket w)
  | .command [] _ => .error .truncated
  | .command (b :: bs) pins => decodeOp cfg (b.toNat % 32) bs pins

/-! ## The encoder -/

/-- A command without pin operands: the op code, then the operand ports. -/
def command (code : Nat) (operands : List Byte) : Presented := .command (BitVec.ofNat 8 code :: operands) []

/-- A command whose operands are pins: the op code, and the pin ports. -/
def pinCommand (code : Nat) (pins : List PinId) : Presented := .command [BitVec.ofNat 8 code] pins

/-- The presented form of an instruction, from the same tables: 30_encoding.md R60 and R63 for the packet formats,
R74 and R76 for the operations. -/
def encode (cfg : Config) : Instr → Presented
  | .pktPwm u c2 c1 c0 => .packet (pwmWord u c2 c1 c0)
  | .pktCorr u t1 t0 p27 c2 p19 c1 p9 m c0 => .packet (corrWord u t1 t0 p27 c2 p19 c1 p9 m c0)
  | .buildPwm a b c => command 0x00 (putNat cfg.inW a ++ (putNat cfg.inW b ++ putNat cfg.inW c))
  | .buildCorr a b c m =>
      command 0x01 (putNat cfg.inW a ++ (putNat cfg.inW b ++ (putNat cfg.inW c ++ putNat cfg.inW m)))
  | .rawValue p => command 0x02 (putPacket p)
  | .modeOf p => command 0x03 (putPacket p)
  | .pwmView p => command 0x04 (putPacket p)
  | .corrView p => command 0x05 (putPacket p)
  | .decodeView p => command 0x06 (putPacket p)
  | .setTracking b => command 0x08 (putBool b)
  | .trkWrite p => command 0x09 (putPacket p)
  | .getState k => command 0x0A (putNat cfg.idxW.bits k)
  | .saveState => command 0x0B []
  | .restoreState ps => command 0x0C (putSeq cfg ps)
  | .newChain n b => command 0x10 (putNat cfg.idxW.bits n ++ putBool b)
  | .setup3 d c l => pinCommand 0x11 [d, c, l]
  | .setup4 d c l e => pinCommand 0x12 [d, c, l, e]
  | .getAuto => command 0x13 []
  | .setAuto b => command 0x14 (putBool b)
  | .setEnabled b => command 0x15 (putBool b)
  | .beginUpdate => command 0x16 []
  | .endUpdate => command 0x17 []
  | .transmit p n => command 0x18 (putPacket p ++ putNat cfg.idxW.bits n)
  | .sendPacket p n => command 0x19 (putPacket p ++ putNat cfg.idxW.bits n)
  | .sendPackets ps => command 0x1A (putSeq cfg ps)
  | .sendAll p => command 0x1B (putPacket p)
  | .sendPwm a b c => command 0x1C (putNat cfg.inW a ++ (putNat cfg.inW b ++ putNat cfg.inW c))
  | .sendCorr a b c m =>
      command 0x1D (putNat cfg.inW a ++ (putNat cfg.inW b ++ (putNat cfg.inW c ++ putNat cfg.inW m)))

/-! ## The host's numbering of the table's words -/

/-- The table's word of `nbits` bits as it is presented: a 32-bit row is a packet word; the other rows give the
select code, and every operand port then holds zeros, up to the longest fixed-length command, and every pin port the
place-holder. -/
def tableWord (nbits w : Nat) : Presented :=
  if nbits = 32 then .packet (BitVec.ofNat 32 w) else .command (leBytes 16 (w % 2 ^ nbits)) (List.replicate 4 .unnamed)

/-- The instruction the decoder reads from a table word, at the standard parameters. -/
def decodeTableWord (nbits w : Nat) : Option Instr :=
  match decode Config.standard (tableWord nbits w) with
  | .ok i => some i
  | .error _ => none

end Sys2Proof
end

