-- ==== Sys2Proof/Machine/State.lean ====
section
/-! DEFINITION. The machine's state as plain data, the reasons a step can stop, and the state after reset. -/

namespace Sys2Proof.Machine

/-- The update cycle's two states (10_state.md R24, 42_chain_controller.md R122). -/
inductive UpdState where
  | idle
  | updating
deriving DecidableEq, Repr

/-- The events of the wire trace (10_state.md R30). -/
inductive WireEvent where
  /-- one data bit clocked into the chain -/
  | shift (b : Bool)
  /-- one latch pulse -/
  | latch
  /-- one write of the not-enable line, `true` for high -/
  | notEnable (high : Bool)
deriving DecidableEq, Repr

/-- The three calls of the pin interface (60_exceptions.md R152). -/
inductive PinCall where
  | configurePin (pin : PinId) (asOutput : Bool)
  | writePin (pin : PinId) (high : Bool)
  | delayMicroseconds (count : Nat)
deriving DecidableEq, Repr

/-- The codes of a result (60_exceptions.md R142): success, and the three failure results. -/
inductive ResultCode where
  | ok
  | notAvailable
  | enableFailed
  | empty
deriving DecidableEq, Repr

/-- The fields of the PWM view (40_packet_codec.md R88). -/
structure PwmFields where
  ch0 : BitVec 10
  ch1 : BitVec 10
  ch2 : BitVec 10
deriving DecidableEq, Repr

/-- The fields of the correction view (40_packet_codec.md R89). -/
structure CorrFields where
  correct0 : BitVec 7
  correct1 : BitVec 7
  correct2 : BitVec 7
  clockMode : BitVec 2
  atb0 : BitVec 1
  atb1 : BitVec 1
deriving DecidableEq, Repr

/-- The tagged result of DECODE (40_packet_codec.md R90). -/
inductive View where
  | pwm (f : PwmFields)
  | corr (f : CorrFields)
deriving DecidableEq, Repr

/-- What stands on the result ports (30_encoding.md R76). -/
inductive Result where
  /-- no result -/
  | nothing
  /-- a packet: BUILD_PWM, BUILD_CORR, GET_STATE -/
  | packet (p : Packet)
  /-- 32 bits: RAW_VALUE -/
  | raw (v : BitVec 32)
  /-- one bit: MODE_OF -/
  | mode (b : BitVec 1)
  /-- PWM_VIEW -/
  | pwmView (f : PwmFields)
  /-- CORR_VIEW -/
  | corrView (f : CorrFields)
  /-- DECODE -/
  | view (v : View)
  /-- a Bool: SET_TRACKING, GET_AUTO -/
  | bool (b : Bool)
  /-- a sequence: SAVE_STATE -/
  | seq (ps : List Packet)
  /-- a count: END_UPDATE -/
  | count (n : Nat)
deriving DecidableEq, Repr

/-- The response of an operation (00_scope.md R8, 60_exceptions.md R142). -/
structure Response where
  code : ResultCode
  result : Result
deriving DecidableEq, Repr

/-- What the caller and the environment do next: an operation or a packet word presented, the chips losing power
(70_reset_and_hazards.md R162), the block losing power (R163); log 13, log 16. -/
inductive Stimulus where
  | operation (p : Presented)
  | chainPowerLoss
  | blockPowerLoss
deriving DecidableEq, Repr

/-- The ring's storage: (slot index, packet) pairs, indices strictly rising; an index that is not listed is a slot
that does not exist (20_memory.md R37, R42; log 12). -/
abbrev Memory := List (Nat × Packet)

/-- Why the machine stops with a fault. -/
inductive Fault where
  /-- Raised by a ring read or write at an index that is no slot of the ring (20_memory.md R42: indices 0 to L-1 are
  the whole address space). Safe: no run of the block reaches it (`Sys2Proof.Machine.State.wf` excludes it). -/
  | noSuchSlot
deriving DecidableEq, Repr

/-- Why an operation is given no meaning: the closed list of 60_exceptions.md R148, one reason of the model's own, and
the host's `notModelled`. All are safe: no run continues through them. -/
inductive Refusal where
  /-- Raised by no meaning of this model: every instruction is modelled. Safe. -/
  | notModelled (mnemonic : String)
  /-- SEND_PACKET and what expands to it while `setup_done = 0` (42_chain_controller.md R128). Safe. -/
  | sendBeforeSetup
  /-- SEND_PACKET with `n = 0` (42_chain_controller.md R128). Safe. -/
  | zeroRepeat
  /-- RESTORE_STATE of a sequence whose length is not L (41_ring_tracker.md R106). Safe. -/
  | misSizedSequence
  /-- BEGIN_UPDATE, and what opens a cycle of its own, while Updating (42_chain_controller.md R123, R135). Safe. -/
  | nestedUpdate
  /-- END_UPDATE while Idle (42_chain_controller.md R124). Safe. -/
  | endWithoutBegin
  /-- NEW_CHAIN of length 0 (42_chain_controller.md R116). Safe. -/
  | zeroLength
  /-- The port, at a code that selects no operation (30_encoding.md R75). Safe. -/
  | reservedOp (code : BitVec 5)
  /-- The port, at TRK_WRITE or TRANSMIT issued by the caller (30_encoding.md R75). Safe. -/
  | internalOp
  /-- Every operation but NEW_CHAIN before the first NEW_CHAIN, and after a loss of the block's power
  (60_exceptions.md R148, 70_reset_and_hazards.md R159, R163; log 8). Safe. -/
  | beforeReset
  /-- The port, at a command with fewer operand bits or pins than its ports have (log 20). Safe. -/
  | truncatedCommand
deriving DecidableEq, Repr

/-- The state. First the block's own, as 10_state.md R13 lists it, then what the spec implies or puts outside the
block, then the model's own. -/
structure State where
  /-- the parameters (00_scope.md R5); no step changes them -/
  cfg : Config
  /-- whether a NEW_CHAIN has been performed (60_exceptions.md R148, BEFORE_RESET) -/
  constructed : Bool
  /-- `chain_len`, written L (10_state.md R17) -/
  chainLen : Nat
  /-- `auto_update` (R23) -/
  autoUpdate : Bool
  /-- `upd_state` (R24) -/
  updState : UpdState
  /-- `sent_count`, below 2^COUNT_W (R27) -/
  sentCount : Nat
  /-- `setup_done` (R25) -/
  setupDone : Bool
  /-- `has_noe` (R25) -/
  hasNoe : Bool
  /-- `pin_data` (R25) -/
  pinData : PinId
  /-- `pin_clock` (R25) -/
  pinClock : PinId
  /-- `pin_latch` (R25) -/
  pinLatch : PinId
  /-- `pin_noe`, meaningful only when `has_noe = 1` (R25) -/
  pinNoe : PinId
  /-- `trk_alloc` (R18) -/
  trkAlloc : Bool
  /-- `trk_en` (R19) -/
  trkEn : Bool
  /-- `head`, in [0, L]; exists only while `trk_alloc = 1` (R16) -/
  head : Nat
  /-- `buf[0 .. L-1]`; no slot while `trk_alloc = 0` (R15) -/
  buf : Memory
  /-- the response port (00_scope.md R8) -/
  response : Response
  /-- the wire trace, oldest event first (R30) -/
  trace : List WireEvent
  /-- the calls made on the pin interface, oldest first (60_exceptions.md R152; log 15) -/
  pinCalls : List PinCall
  /-- `SH[0 ..]`, the chips' shift registers, nearest chip first (R29; environment, log 11) -/
  sh : List Packet
  /-- `OUT[0 ..]`, the chips' active outputs, nearest chip first (R29; environment, log 11) -/
  out : List Packet
  /-- the model's own: what the caller and the environment do next, first first (log 13) -/
  port : List Stimulus
  /-- the model's own: how many times free values have been drawn (log 10) -/
  draws : Nat
deriving DecidableEq, Repr

/-- The response of a success without a result. -/
def Response.done : Response := ⟨.ok, .nothing⟩

/-- A success with a result. -/
def Response.success (r : Result) : Response := ⟨.ok, r⟩

/-- `k` chips whose shift registers are unknown (10_state.md R36; log 11). -/
def unknownShift (d k : Nat) : List Packet := (List.range k).map (Config.freeShift d)

/-- `k` chips whose outputs are unknown (10_state.md R36; log 11). -/
def unknownOut (d k : Nat) : List Packet := (List.range k).map (Config.freeOut d)

/-- Before the first NEW_CHAIN: the block has no defined state (70_reset_and_hazards.md R159, R163). The values of
its fields are place-holders, which no operation can show: NEW_CHAIN overwrites them all. -/
def State.powerOn (cfg : Config) : State where
  cfg := cfg
  constructed := false
  chainLen := 0
  autoUpdate := false
  updState := .idle
  sentCount := 0
  setupDone := false
  hasNoe := false
  pinData := .unnamed
  pinClock := .unnamed
  pinLatch := .unnamed
  pinNoe := .unnamed
  trkAlloc := false
  trkEn := false
  head := 0
  buf := []
  response := .done
  trace := []
  pinCalls := []
  sh := []
  out := []
  port := []
  draws := 0

/-- The state right after the reset operation `NEW_CHAIN(3, 1)` (10_state.md R36, 70_reset_and_hazards.md R159, R160),
the operands those of the worked example of 42_chain_controller.md R116 (log 1); `sent_count`, the pins and `head`,
to which R36 gives no value, as log 2, log 3 and log 4 say. -/
def State.reset : State where
  cfg := Config.standard
  constructed := true
  chainLen := 3
  autoUpdate := true
  updState := .idle
  sentCount := 0
  setupDone := false
  hasNoe := false
  pinData := .unnamed
  pinClock := .unnamed
  pinLatch := .unnamed
  pinNoe := .unnamed
  trkAlloc := false
  trkEn := false
  head := 0
  buf := []
  response := .done
  trace := []
  pinCalls := []
  sh := unknownShift 0 3
  out := unknownOut 0 3
  port := []
  draws := 1

/-! ## Updates of one thing each -/

/-- Put a response on the response port. -/
def State.respond (s : State) (r : Response) : State := { s with response := r }

/-- Append events to the wire trace (`emit`, 00_scope.md R7). -/
def State.pushEvents (s : State) (es : List WireEvent) : State := { s with trace := s.trace ++ es }

/-- Append calls on the pin interface. -/
def State.pushCalls (s : State) (cs : List PinCall) : State := { s with pinCalls := s.pinCalls ++ cs }

/-- Set the chips' shift registers. -/
def State.setShift (s : State) (sh : List Packet) : State := { s with sh := sh }

/-- Set the chips' active outputs. -/
def State.setOut (s : State) (out : List Packet) : State := { s with out := out }

/-- Set `upd_state`. -/
def State.setUpd (s : State) (u : UpdState) : State := { s with updState := u }

/-- Set `sent_count`. -/
def State.setCount (s : State) (n : Nat) : State := { s with sentCount := n }

/-- Set `auto_update`. -/
def State.setAuto (s : State) (b : Bool) : State := { s with autoUpdate := b }

/-- Set `head` and the slots. -/
def State.setRing (s : State) (h : Nat) (m : Memory) : State := { s with head := h, buf := m }

/-- Set `trk_alloc` and `trk_en`. -/
def State.setTrk (s : State) (alloc en : Bool) : State := { s with trkAlloc := alloc, trkEn := en }

/-- Set the pins of SETUP3, `has_noe` and `setup_done`. -/
def State.setPins (s : State) (d c l : PinId) (noe : Bool) : State :=
  { s with pinData := d, pinClock := c, pinLatch := l, hasNoe := noe, setupDone := true }

/-- Set `pin_noe`. -/
def State.setPinNoe (s : State) (e : PinId) : State := { s with pinNoe := e }

/-- Set what is presented next. -/
def State.setPort (s : State) (p : List Stimulus) : State := { s with port := p }

/-- Count one more draw of free values. -/
def State.drawn (s : State) : State := { s with draws := s.draws + 1 }

end Sys2Proof.Machine
end

