-- ==== Sys2Proof/Machine/Operands.lean ====
section
/-! DEFINITION. Operand forms of the codec: truncation, field assembly and field extraction (30_encoding.md R67 to R69). -/

namespace Sys2Proof.Machine

/-- `trunc_N(v)`, the low `N` bits (00_scope.md R7). -/
def trunc (n v : Nat) : BitVec n := BitVec.ofNat n v

/-- `zext_32(v) << at`: a field at its position (00_scope.md R7). -/
def place {n : Nat} (v : BitVec n) (at_ : Nat) : Packet := v.setWidth 32 <<< at_

/-- PWM assembly (30_encoding.md R67, 40_packet_codec.md R84). -/
def buildPwm (ch0 ch1 ch2 : Nat) : Packet :=
  place (trunc 10 ch2) ch2At ||| place (trunc 10 ch1) ch1At ||| place (trunc 10 ch0) ch0At

/-- Correction assembly (30_encoding.md R68, 40_packet_codec.md R85). -/
def buildCorr (c0 c1 c2 clockMode : Nat) : Packet :=
  place modeCorr modeBit ||| place (trunc 7 c2) correct2At ||| place (trunc 7 c1) correct1At
    ||| place (trunc 2 clockMode) clockModeAt ||| place (trunc 7 c0) correct0At

/-- The PWM view, slices whatever the mode flag says (40_packet_codec.md R88). -/
def pwmView (p : Packet) : PwmFields where
  ch0 := slice p ch0At 10
  ch1 := slice p ch1At 10
  ch2 := slice p ch2At 10

/-- The correction view, slices whatever the mode flag says (40_packet_codec.md R89). -/
def corrView (p : Packet) : CorrFields where
  correct0 := slice p correct0At 7
  correct1 := slice p correct1At 7
  correct2 := slice p correct2At 7
  clockMode := slice p clockModeAt 2
  atb0 := slice p atb0At 1
  atb1 := slice p atb1At 1

/-- The bits of a packet in wire order, bit 31 first (20_memory.md R44, 30_encoding.md R79). -/
def packetBits (p : Packet) : List Bool := (List.range 32).map fun i => p.getLsbD (31 - i)

end Sys2Proof.Machine
end

