-- ==== Sys2Proof/Machine/Flags.lean ====
section
/-! DEFINITION. The block has no arithmetic flags (10_state.md R28). Its flag is the mode flag of a packet (30_encoding.md R61); beside it the guards that the one-bit state elements give the operations, and the numeric result codes. -/

namespace Sys2Proof.Machine

/-- The mode flag of a packet (40_packet_codec.md R87). -/
def modeOf (p : Packet) : BitVec 1 := slice p modeBit 1

/-- The view that the mode flag selects (40_packet_codec.md R90). -/
def selectView (p : Packet) : View :=
  if modeOf p = modePwm then .pwm (pwmView p) else .corr (corrView p)

/-- The numeric codes of 60_exceptions.md R142. -/
def ResultCode.number : ResultCode → Nat
  | .ok => 0
  | .notAvailable => 1
  | .enableFailed => 2
  | .empty => 3

/-- Every operation but NEW_CHAIN needs a NEW_CHAIN before it (60_exceptions.md R148, BEFORE_RESET, 92 D24; log 8). -/
def whenConstructed (s : State) (k : Host.Outcome State Fault Refusal) : Host.Outcome State Fault Refusal :=
  if s.constructed then k else .refused .beforeReset

/-- The ring may be read: tracking is enabled (10_state.md R19). -/
def tracking (s : State) : Bool := s.trkEn

/-- Nothing has been written since allocation: `head` is the sentinel L (10_state.md R16). -/
def atSentinel (s : State) : Bool := s.head == s.chainLen

end Sys2Proof.Machine
end

