-- ==== Sys2Proof/Machine/Ops.lean ====
section
/-! DEFINITION. The named operations the meanings share: outcomes in sequence, the ring memory, the pin calls and wire events, the update cycle, transmission and sends, failure results, construction and the loss of power. -/

namespace Sys2Proof.Machine

/-! ## Outcomes -/

/-- Go on with the next state; a fault or a refusal of a part is one of the whole (42_chain_controller.md R115). -/
def andThen (o : Host.Outcome State Fault Refusal) (f : State → Host.Outcome State Fault Refusal) :
    Host.Outcome State Fault Refusal :=
  match o with
  | .next s => f s
  | .fault r => .fault r
  | .refused r => .refused r

/-- End an operation with a success and a result. -/
def finish (r : Result) (s : State) : Host.Outcome State Fault Refusal := .next (s.respond (.success r))

/-- `raise <Result>`: end an operation with a failure result, a value like any other (60_exceptions.md R145). The
block has no exception to take and none to return from (R141, R151). -/
def raise (c : ResultCode) (r : Result) (s : State) : Host.Outcome State Fault Refusal := .next (s.respond ⟨c, r⟩)

/-! ## The ring memory -/

/-- `MemRead(a, 1)`; none at an index that is no slot (20_memory.md R42). -/
def Memory.read : Memory → Nat → Option Packet
  | [], _ => none
  | (b, v) :: rest, a => if b = a then some v else Memory.read rest a

/-- `MemWrite(a, 1, v)`; none at an index that is no slot (20_memory.md R42, R47). -/
def Memory.write : Memory → Nat → Packet → Option Memory
  | [], _, _ => none
  | (b, w) :: rest, a, v =>
    if b = a then some ((b, v) :: rest)
    else
      match Memory.write rest a v with
      | none => none
      | some rest' => some ((b, w) :: rest')

/-- The canonical form: indices strictly rising. -/
def Memory.wf : Memory → Bool
  | [] => true
  | (a, _) :: rest => rest.all (fun c => decide (a < c.1)) && Memory.wf rest

/-- `n` slots, slot `i` holding `f i`. -/
def Memory.allocate (n : Nat) (f : Nat → Packet) : Memory := (List.range n).map fun i => (i, f i)

/-- `phys(k) = (head + k) mod L`, over natural numbers (20_memory.md R38, R39). -/
def phys (s : State) (k : Nat) : Nat := (s.head + k) % s.chainLen

/-- The head after a write: one lower, wrapping at 0 (41_ring_tracker.md R101). -/
def nextHead (s : State) : Nat := if s.head = 0 then s.chainLen - 1 else s.head - 1

/-- The ring write algorithm (41_ring_tracker.md R101). -/
def writeRing (p : Packet) (s : State) : Host.Outcome State Fault Refusal :=
  if s.trkEn then
    match Memory.write s.buf (nextHead s) p with
    | some m => .next (s.setRing (nextHead s) m)
    | none => .fault .noSuchSlot
  else .next s

/-- The slot of a logical position (20_memory.md R38). -/
def readPosition (s : State) (k : Nat) : Option Packet := Memory.read s.buf (phys s k)

/-- The packets of a list of logical positions; none if one of the slots does not exist. -/
def readPositions (s : State) : List Nat → Option (List Packet)
  | [] => some []
  | k :: ks =>
    match readPosition s k, readPositions s ks with
    | some p, some ps => some (p :: ps)
    | _, _ => none

/-- Allocation: L slots of unspecified contents, head at the sentinel (41_ring_tracker.md R98, 10_state.md R21). -/
def allocateRing (s : State) : State :=
  (s.setRing s.chainLen (Memory.allocate s.chainLen (Config.freeSlot s.draws))).drawn

/-! ## Pins, wire and chain -/

/-- The calls of one bit (42_chain_controller.md R127). -/
def shiftBitCalls (s : State) (b : Bool) : List PinCall :=
  [.writePin s.pinData b, .delayMicroseconds s.cfg.tSettle, .writePin s.pinClock true,
   .delayMicroseconds s.cfg.tSettle, .writePin s.pinClock false]

/-- `ShiftBit(b)` (42_chain_controller.md R127). -/
def shiftBit (b : Bool) (s : State) : State := (s.pushCalls (shiftBitCalls s b)).pushEvents [.shift b]

/-- Bits in the order given. -/
def shiftBits : List Bool → State → State
  | [], s => s
  | b :: bs, s => shiftBits bs (shiftBit b s)

/-- What one whole packet does to the chain's shift registers: each moves one chip down and the far one's value is
lost (10_state.md R29). -/
def shiftIn (p : Packet) (sh : List Packet) : List Packet := (p :: sh).take sh.length

/-- One packet on the wire, 32 bits, bit 31 first (20_memory.md R44), and its effect on the chain (10_state.md R29). -/
def transmitOne (p : Packet) (s : State) : State := (shiftBits (packetBits p) s).setShift (shiftIn p s.sh)

/-- `TRANSMIT(p, n)` (42_chain_controller.md R126). -/
def transmit (p : Packet) : Nat → State → State
  | 0, s => s
  | n + 1, s => transmit p n (transmitOne p s)

/-- The calls of a latch pulse (42_chain_controller.md R125). -/
def latchCalls (s : State) : List PinCall :=
  [.writePin s.pinLatch true, .delayMicroseconds s.cfg.tLatch, .writePin s.pinLatch false]

/-- `LatchPulse()` (42_chain_controller.md R125): every chip adopts its shift register (10_state.md R29). -/
def latchPulse (s : State) : State := ((s.pushCalls (latchCalls s)).pushEvents [.latch]).setOut s.sh

/-- Drive the not-enable line; it is active low (42_chain_controller.md R121). -/
def driveNotEnable (active : Bool) (s : State) : State :=
  (s.pushCalls [.writePin s.pinNoe (!active)]).pushEvents [.notEnable (!active)]

/-- The level of a pin after the calls made so far: that of the last write to it, unspecified before the first
(10_state.md R36, 91 N13). -/
def pinLevel : List PinCall → PinId → Option Bool
  | [], _ => none
  | .writePin q high :: rest, pin =>
    match pinLevel rest pin with
    | some h => some h
    | none => if q = pin then some high else none
  | .configurePin _ _ :: rest, pin => pinLevel rest pin
  | .delayMicroseconds _ :: rest, pin => pinLevel rest pin

/-! ## The update cycle -/

/-- BEGIN_UPDATE's effect (42_chain_controller.md R123). -/
def openCycle (s : State) : Host.Outcome State Fault Refusal :=
  if s.updState = .updating then .refused .nestedUpdate
  else .next ((s.setUpd .updating).setCount 0)

/-- END_UPDATE's effect; the count it returns is `sent_count`, which it leaves (42_chain_controller.md R124). -/
def closeCycle (s : State) : Host.Outcome State Fault Refusal :=
  if s.updState = .idle then .refused .endWithoutBegin
  else if 0 < s.sentCount then .next ((latchPulse s).setUpd .idle)
  else .next (s.setUpd .idle)

/-! ## Sends -/

/-- One more packet sent, modulo 2^COUNT_W (10_state.md R27, 42_chain_controller.md R136). -/
def countOne (s : State) : State := s.setCount ((s.sentCount + 1) % 2 ^ s.cfg.countW)

/-- Count and record `n` repetitions (42_chain_controller.md R128, 41_ring_tracker.md R114). -/
def recordSent (p : Packet) : Nat → State → Host.Outcome State Fault Refusal
  | 0, s => .next s
  | n + 1, s => andThen (writeRing p (countOne s)) (recordSent p n)

/-- The body of a send: the wire first, then the count and the ring (20_memory.md R53). -/
def sendBody (p : Packet) (n : Nat) (s : State) : Host.Outcome State Fault Refusal := recordSent p n (transmit p n s)

/-- SEND_PACKET's effect (42_chain_controller.md R128). -/
def sendRepeated (p : Packet) (n : Nat) (s : State) : Host.Outcome State Fault Refusal :=
  if s.setupDone then
    if n = 0 then .refused .zeroRepeat
    else if s.autoUpdate then andThen (openCycle s) fun t => andThen (sendBody p n t) closeCycle
    else sendBody p n s
  else .refused .sendBeforeSetup

/-- Each packet of a sequence in turn, element 0 first (42_chain_controller.md R130). -/
def sendEach : List Packet → State → Host.Outcome State Fault Refusal
  | [], s => .next s
  | p :: ps, s => andThen (sendRepeated p 1 s) (sendEach ps)

/-- SEND_PACKETS' effect: auto-update suspended, one cycle around the batch (42_chain_controller.md R130). -/
def sendBatch (ps : List Packet) (s : State) : Host.Outcome State Fault Refusal :=
  andThen (openCycle (s.setAuto false)) fun t =>
    andThen (sendEach ps t) fun u =>
      andThen (closeCycle u) fun v => .next (v.setAuto s.autoUpdate)

/-! ## Construction and loss of power -/

/-- What NEW_CHAIN leaves (42_chain_controller.md R116, 10_state.md R36): `sent_count` and the chips unknown, the pins
and `head` without a value (place-holders, log 3, log 4), no ring, an empty trace. -/
def construct (length : Nat) (auto : Bool) (s : State) : State where
  cfg := s.cfg
  constructed := true
  chainLen := length
  autoUpdate := auto
  updState := .idle
  sentCount := Config.freeCount s.draws % 2 ^ s.cfg.countW
  setupDone := false
  hasNoe := false
  pinData := .unnamed
  pinClock := .unnamed
  pinLatch := .unnamed
  pinNoe := .unnamed
  trkAlloc := false
  trkEn := false
  head := 0
  buf := []
  response := s.response
  trace := []
  pinCalls := []
  sh := unknownShift s.draws (s.cfg.wired.getD length)
  out := unknownOut s.draws (s.cfg.wired.getD length)
  port := s.port
  draws := s.draws + 1

/-- The chips lose power: their registers are unknown again, the block is unaffected (70_reset_and_hazards.md R162,
95_test_vectors.md program 2; log 16). -/
def loseChain (s : State) : State :=
  ((s.setShift (unknownShift s.draws s.sh.length)).setOut (unknownOut s.draws s.out.length)).drawn

/-- The block loses power: all its state is lost, and only NEW_CHAIN gives it a state again
(70_reset_and_hazards.md R163; log 16). The chips are not the block's. -/
def losePower (s : State) : State :=
  { State.powerOn s.cfg with sh := s.sh, out := s.out, port := s.port, draws := s.draws }

end Sys2Proof.Machine
end

