-- ==== Sys2Proof/Machine/Codec.lean ====
section
/-! DEFINITION. The meanings of the packet codec's operations (40_packet_codec.md) and of the two packet-format rows (30_encoding.md R60, R63). Pure: once a NEW_CHAIN has been performed none is ever refused, and none reads or writes any state but the response port (R81); before the first NEW_CHAIN each is refused like every other operation (60_exceptions.md R148, 70_reset_and_hazards.md R159; log 8). -/

namespace Sys2Proof.Machine

/-- PKT.PWM: the word put to the codec is in the PWM format; the codec takes it apart (30_encoding.md R60, R69, R70;
log 7). -/
def execPktPwm (unused : BitVec 1) (ch2 ch1 ch0 : BitVec 10) (s : State) : Host.Outcome State Fault Refusal :=
  whenConstructed s (finish (.view (selectView (pwmWord unused ch2 ch1 ch0))) s)

/-- PKT.CORR: the word put to the codec is in the correction format; the codec takes it apart (30_encoding.md R63,
R69, R70; log 7). -/
def execPktCorr (unused atb1 atb0 pad27 : BitVec 1) (correct2 : BitVec 7) (pad19 : BitVec 3) (correct1 : BitVec 7)
    (pad9 : BitVec 1) (clockMode : BitVec 2) (correct0 : BitVec 7) (s : State) : Host.Outcome State Fault Refusal :=
  whenConstructed s
    (finish (.view (selectView (corrWord unused atb1 atb0 pad27 correct2 pad19 correct1 pad9 clockMode correct0))) s)

/-- BUILD_PWM (40_packet_codec.md R84). -/
def execBuildPwm (ch0 ch1 ch2 : Nat) (s : State) : Host.Outcome State Fault Refusal :=
  whenConstructed s (finish (.packet (buildPwm ch0 ch1 ch2)) s)

/-- BUILD_CORR (40_packet_codec.md R85). -/
def execBuildCorr (c0 c1 c2 clockMode : Nat) (s : State) : Host.Outcome State Fault Refusal :=
  whenConstructed s (finish (.packet (buildCorr c0 c1 c2 clockMode)) s)

/-- RAW_VALUE (40_packet_codec.md R86). -/
def execRawValue (p : Packet) (s : State) : Host.Outcome State Fault Refusal :=
  whenConstructed s (finish (.raw p) s)

/-- MODE_OF (40_packet_codec.md R87). -/
def execModeOf (p : Packet) (s : State) : Host.Outcome State Fault Refusal :=
  whenConstructed s (finish (.mode (modeOf p)) s)

/-- PWM_VIEW (40_packet_codec.md R88). -/
def execPwmView (p : Packet) (s : State) : Host.Outcome State Fault Refusal :=
  whenConstructed s (finish (.pwmView (pwmView p)) s)

/-- CORR_VIEW (40_packet_codec.md R89). -/
def execCorrView (p : Packet) (s : State) : Host.Outcome State Fault Refusal :=
  whenConstructed s (finish (.corrView (corrView p)) s)

/-- DECODE (40_packet_codec.md R90). -/
def execDecode (p : Packet) (s : State) : Host.Outcome State Fault Refusal :=
  whenConstructed s (finish (.view (selectView p)) s)

end Sys2Proof.Machine
end

