-- ==== Sys2Proof/Machine/Controller.lean ====
section
/-! DEFINITION. The meanings of the chain controller's operations (42_chain_controller.md). -/

namespace Sys2Proof.Machine

/-- NEW_CHAIN, the block's reset (42_chain_controller.md R116). -/
def execNewChain (length : Nat) (autoUpdate : Bool) (s : State) : Host.Outcome State Fault Refusal :=
  if length = 0 then .refused .zeroLength else finish .nothing (construct length autoUpdate s)

/-- SETUP3 (42_chain_controller.md R117). -/
def execSetup3 (dataPin clockPin latchPin : PinId) (s : State) : Host.Outcome State Fault Refusal :=
  whenConstructed s
    (finish .nothing
      ((s.setPins dataPin clockPin latchPin false).pushCalls
        [.configurePin dataPin true, .configurePin clockPin true, .configurePin latchPin true]))

/-- SETUP4 (42_chain_controller.md R118). -/
def execSetup4 (dataPin clockPin latchPin notEnablePin : PinId) (s : State) : Host.Outcome State Fault Refusal :=
  whenConstructed s
    (finish .nothing
      (((s.setPins dataPin clockPin latchPin true).setPinNoe notEnablePin).pushCalls
        [.configurePin dataPin true, .configurePin clockPin true, .configurePin latchPin true,
         .configurePin notEnablePin true]))

/-- GET_AUTO (42_chain_controller.md R119). -/
def execGetAuto (s : State) : Host.Outcome State Fault Refusal :=
  whenConstructed s (finish (.bool s.autoUpdate) s)

/-- SET_AUTO (42_chain_controller.md R120). -/
def execSetAuto (b : Bool) (s : State) : Host.Outcome State Fault Refusal :=
  whenConstructed s (finish .nothing (s.setAuto b))

/-- SET_ENABLED (42_chain_controller.md R121). -/
def execSetEnabled (active : Bool) (s : State) : Host.Outcome State Fault Refusal :=
  whenConstructed s (finish .nothing (if s.hasNoe then driveNotEnable active s else s))

/-- BEGIN_UPDATE (42_chain_controller.md R123). -/
def execBeginUpdate (s : State) : Host.Outcome State Fault Refusal :=
  whenConstructed s (andThen (openCycle s) (finish .nothing))

/-- END_UPDATE (42_chain_controller.md R124): it returns the count and leaves it. -/
def execEndUpdate (s : State) : Host.Outcome State Fault Refusal :=
  whenConstructed s (andThen (closeCycle s) (finish (.count s.sentCount)))

/-- TRANSMIT (42_chain_controller.md R126), as SEND_PACKET performs it; the port refuses it (30_encoding.md R75;
log 9). -/
def execTransmit (p : Packet) (n : Nat) (s : State) : Host.Outcome State Fault Refusal :=
  whenConstructed s (finish .nothing (transmit p n s))

/-- SEND_PACKET (42_chain_controller.md R128). -/
def execSendPacket (p : Packet) (n : Nat) (s : State) : Host.Outcome State Fault Refusal :=
  whenConstructed s (andThen (sendRepeated p n s) (finish .nothing))

/-- SEND_PACKETS (42_chain_controller.md R130). -/
def execSendPackets (ps : List Packet) (s : State) : Host.Outcome State Fault Refusal :=
  whenConstructed s (andThen (sendBatch ps s) (finish .nothing))

/-- SEND_ALL: `SEND_PACKET(p, L)` (42_chain_controller.md R132). -/
def execSendAll (p : Packet) (s : State) : Host.Outcome State Fault Refusal :=
  whenConstructed s (andThen (sendRepeated p s.chainLen s) (finish .nothing))

/-- SEND_PWM: `SEND_PACKET(BUILD_PWM(ch0, ch1, ch2), 1)` (42_chain_controller.md R133). -/
def execSendPwm (ch0 ch1 ch2 : Nat) (s : State) : Host.Outcome State Fault Refusal :=
  whenConstructed s (andThen (sendRepeated (buildPwm ch0 ch1 ch2) 1 s) (finish .nothing))

/-- SEND_CORR: `SEND_PACKET(BUILD_CORR(c0, c1, c2, clockMode), 1)` (42_chain_controller.md R134). -/
def execSendCorr (c0 c1 c2 clockMode : Nat) (s : State) : Host.Outcome State Fault Refusal :=
  whenConstructed s (andThen (sendRepeated (buildCorr c0 c1 c2 clockMode) 1 s) (finish .nothing))

end Sys2Proof.Machine
end

