-- ==== Sys2Proof/Machine/Tracker.lean ====
section
/-! DEFINITION. The meanings of the ring-buffer state tracker's operations (41_ring_tracker.md). -/

namespace Sys2Proof.Machine

/-- SET_TRACKING (41_ring_tracker.md R98 to R100): the result is the value of `trk_en` afterwards. -/
def execSetTracking (b : Bool) (s : State) : Host.Outcome State Fault Refusal :=
  whenConstructed s
    (if b then
      if s.trkAlloc then finish (.bool true) (s.setTrk true true)
      else if s.cfg.capacity < s.chainLen then raise .enableFailed (.bool false) (s.setTrk s.trkAlloc false)
      else finish (.bool true) ((allocateRing s).setTrk true true)
    else finish (.bool false) (s.setTrk s.trkAlloc false))

/-- TRK_WRITE (41_ring_tracker.md R101), as the controller performs it; the port refuses it (R113; log 9). -/
def execTrkWrite (p : Packet) (s : State) : Host.Outcome State Fault Refusal :=
  whenConstructed s (andThen (writeRing p s) (finish .nothing))

/-- GET_STATE (41_ring_tracker.md R103). -/
def execGetState (index : Nat) (s : State) : Host.Outcome State Fault Refusal :=
  whenConstructed s
    (if s.chainLen ≤ index ∨ tracking s = false then raise .notAvailable .nothing s
    else
      match readPosition s index with
      | some p => finish (.packet p) s
      | none => .fault .noSuchSlot)

/-- SAVE_STATE (41_ring_tracker.md R104). -/
def execSaveState (s : State) : Host.Outcome State Fault Refusal :=
  whenConstructed s
    (if tracking s = false ∨ atSentinel s = true then raise .empty (.seq []) s
    else
      match readPositions s (List.range s.chainLen) with
      | some ps => finish (.seq ps) s
      | none => .fault .noSuchSlot)

/-- RESTORE_STATE (41_ring_tracker.md R106): the sequence is sent far end first, in one batch. -/
def execRestoreState (ps : List Packet) (s : State) : Host.Outcome State Fault Refusal :=
  whenConstructed s
    (if ps.length = s.chainLen then andThen (sendBatch ps.reverse s) (finish .nothing)
    else .refused .misSizedSequence)

end Sys2Proof.Machine
end

