-- ==== Sys2Proof/Machine/Dispatch.lean ====
section
/-! DEFINITION. One arm per instruction: the call of its meaning. -/

namespace Sys2Proof.Machine

def exec (i : Instr) (s : State) : Host.Outcome State Fault Refusal :=
  match i with
  | .pktPwm u c2 c1 c0 => Sys2Proof.Machine.execPktPwm u c2 c1 c0 s
  | .pktCorr u t1 t0 p27 c2 p19 c1 p9 m c0 => Sys2Proof.Machine.execPktCorr u t1 t0 p27 c2 p19 c1 p9 m c0 s
  | .buildPwm ch0 ch1 ch2 => Sys2Proof.Machine.execBuildPwm ch0 ch1 ch2 s
  | .buildCorr c0 c1 c2 m => Sys2Proof.Machine.execBuildCorr c0 c1 c2 m s
  | .rawValue p => Sys2Proof.Machine.execRawValue p s
  | .modeOf p => Sys2Proof.Machine.execModeOf p s
  | .pwmView p => Sys2Proof.Machine.execPwmView p s
  | .corrView p => Sys2Proof.Machine.execCorrView p s
  | .decodeView p => Sys2Proof.Machine.execDecode p s
  | .setTracking b => Sys2Proof.Machine.execSetTracking b s
  | .trkWrite p => Sys2Proof.Machine.execTrkWrite p s
  | .getState index => Sys2Proof.Machine.execGetState index s
  | .saveState => Sys2Proof.Machine.execSaveState s
  | .restoreState ps => Sys2Proof.Machine.execRestoreState ps s
  | .newChain length auto => Sys2Proof.Machine.execNewChain length auto s
  | .setup3 d c l => Sys2Proof.Machine.execSetup3 d c l s
  | .setup4 d c l e => Sys2Proof.Machine.execSetup4 d c l e s
  | .getAuto => Sys2Proof.Machine.execGetAuto s
  | .setAuto b => Sys2Proof.Machine.execSetAuto b s
  | .setEnabled active => Sys2Proof.Machine.execSetEnabled active s
  | .beginUpdate => Sys2Proof.Machine.execBeginUpdate s
  | .endUpdate => Sys2Proof.Machine.execEndUpdate s
  | .transmit p n => Sys2Proof.Machine.execTransmit p n s
  | .sendPacket p n => Sys2Proof.Machine.execSendPacket p n s
  | .sendPackets ps => Sys2Proof.Machine.execSendPackets ps s
  | .sendAll p => Sys2Proof.Machine.execSendAll p s
  | .sendPwm ch0 ch1 ch2 => Sys2Proof.Machine.execSendPwm ch0 ch1 ch2 s
  | .sendCorr c0 c1 c2 m => Sys2Proof.Machine.execSendCorr c0 c1 c2 m s

end Sys2Proof.Machine
end

