-- ==== Sys2Proof/Machine/Port.lean ====
section
/-! DEFINITION. The command port: what a presented command comes to, and what an event of the environment does. -/

namespace Sys2Proof.Machine

/-- Why the port refuses what it cannot decode (30_encoding.md R75; log 20). -/
def portRefusal : DecodeError → Refusal
  | .reservedOp code => .reservedOp code
  | .truncated => .truncatedCommand

/-- Perform what is presented; the two internal operations are refused at the port (30_encoding.md R75). -/
def perform (p : Presented) (s : State) : Host.Outcome State Fault Refusal :=
  match decode s.cfg p with
  | .error e => .refused (portRefusal e)
  | .ok i => if i.internal then .refused .internalOp else exec i s

/-- One stimulus: an operation, or a loss of power (log 16). -/
def respondTo (e : Stimulus) (s : State) : Host.Outcome State Fault Refusal :=
  match e with
  | .operation p => perform p s
  | .chainPowerLoss => .next (loseChain s)
  | .blockPowerLoss => .next (losePower s)

/-- Put a table word where the next step takes its operation from, in front of what was there. -/
def present (p : Presented) (s : State) : State := s.setPort (.operation p :: s.port)

end Sys2Proof.Machine
end

