-- ==== Sys2Proof/Machine/Step.lean ====
section
/-! DEFINITION. The step: take what the caller presents next and perform it to completion; with nothing presented, nothing happens. -/

namespace Sys2Proof.Machine

/-- One step (10_state.md R14): the block has no program counter and fetches nothing, it performs the operation the
caller issues. With nothing presented nothing happens (60_exceptions.md R149, 70_reset_and_hazards.md R162; log 14). -/
def step (s : State) : Host.Outcome State Fault Refusal :=
  match s.port with
  | [] => .next s
  | e :: rest => respondTo e (s.setPort rest)

/-- `s` with the table's word presented next (log 13). -/
def State.withFetchWord (s : State) (nbits w : Nat) : State := present (tableWord nbits w) s

end Sys2Proof.Machine
end

