-- ==== Sys2Proof/Safety.lean ====
section
/-! DEFINITION. What claims speak of: the states a run can be in, the ring as the caller sees it, the ring mirroring the chain, and what counts as a safe outcome. -/

namespace Sys2Proof.Machine

/-- The ring is whole: its slots are exactly `0 .. L-1` and `head` is in `[0, L]` (10_state.md R15, R16). -/
abbrev State.ringWhole (s : State) : Prop := s.buf.map Prod.fst = List.range s.chainLen ∧ s.head ≤ s.chainLen

/-- The states a run can be in: the legal range of the chain length (10_state.md R17), the width of the count (R27),
tracking only over an allocated ring (R19), a whole ring while allocated (R15, R16) and none otherwise, a not-enable
line only after a setup (R25), and none of these before the first NEW_CHAIN. -/
abbrev State.wf (s : State) : Prop :=
  (s.constructed = true → 1 ≤ s.chainLen ∧ s.chainLen < 2 ^ s.cfg.idxW.bits)
  ∧ s.sentCount < 2 ^ s.cfg.countW
  ∧ (s.trkEn = true → s.trkAlloc = true)
  ∧ (s.trkAlloc = true → s.constructed = true ∧ s.ringWhole)
  ∧ (s.trkAlloc = false → s.buf = [])
  ∧ (s.hasNoe = true → s.setupDone = true)
  ∧ (s.setupDone = true → s.constructed = true)

/-- A send is not refused and its ring writes find their slots: the conditions on the state under which a send
completes (42_chain_controller.md R128). -/
abbrev State.sendReady (s : State) : Prop :=
  s.constructed = true ∧ s.setupDone = true ∧ 1 ≤ s.chainLen ∧ (s.trkEn = true → s.ringWhole)

/-- The ring in logical order, nearest chip first: `buf[(head + k) mod L]` for `k = 0 .. L-1` (20_memory.md R38). -/
def ringView (s : State) : Option (List Packet) := readPositions s (List.range s.chainLen)

/-- The ring agrees with the chain on the first `m` logical positions (10_state.md R31, R32), as far as chips are
wired: the slot of logical position `k` holds what chip `k` has shifted in. -/
def State.mirrors (m : Nat) (s : State) : Prop :=
  ∀ k v, k < m → k < s.chainLen → s.sh[k]? = some v → readPosition s k = some v

/-- The head after `n` ring writes from head `h` in a ring of `l` slots: each one lower, modulo `l`
(10_state.md R33, 41_ring_tracker.md R101). -/
def headAfter (l h n : Nat) : Nat := if n = 0 then h else (h + n * (l - 1)) % l

/-- The wire events of packets sent in the order given (42_chain_controller.md R126). -/
def wireOf (ps : List Packet) : List WireEvent := ps.flatMap fun p => (packetBits p).map WireEvent.shift

/-- The pin calls of packets sent in the order given (42_chain_controller.md R127). -/
def callsOf (s : State) (ps : List Packet) : List PinCall :=
  ps.flatMap fun p => (packetBits p).flatMap (shiftBitCalls s)

/-- The chips' shift registers after packets sent in the order given: the last sent is nearest (10_state.md R29). -/
def chainAfter (ps sh : List Packet) : List Packet := (ps.reverse ++ sh).take sh.length

/-- What sending `ps` in the order given leaves in the ring: with tracking off, nothing has moved; with tracking on,
the head has gone down once per packet, the ring is whole, in logical order the packets sent come first, newest
nearest, every other one stands that many positions further down, and every slot that no write addressed reads as
before (41_ring_tracker.md R101, R114). -/
def ringAfter (ps : List Packet) (s t : State) : Prop :=
  if s.trkEn = true then
    t.head = headAfter s.chainLen s.head ps.length ∧ t.ringWhole
    ∧ (∀ k, k < s.chainLen →
        readPosition t k = if k < ps.length then ps.reverse[k]? else readPosition s (k - ps.length))
    ∧ ∀ a, (∀ j, 1 ≤ j → j ≤ ps.length → a ≠ headAfter s.chainLen s.head j) →
        Memory.read t.buf a = Memory.read s.buf a
  else t.head = s.head ∧ t.buf = s.buf

/-- The codec's operations and the two packet rows (40_packet_codec.md R81, 30_encoding.md R60, R63). -/
def isCodec : Instr → Bool
  | .pktPwm _ _ _ _ => true
  | .pktCorr _ _ _ _ _ _ _ _ _ _ => true
  | .buildPwm _ _ _ => true
  | .buildCorr _ _ _ _ => true
  | .rawValue _ => true
  | .modeOf _ => true
  | .pwmView _ => true
  | .corrView _ => true
  | .decodeView _ => true
  | .setTracking _ => false
  | .trkWrite _ => false
  | .getState _ => false
  | .saveState => false
  | .restoreState _ => false
  | .newChain _ _ => false
  | .setup3 _ _ _ => false
  | .setup4 _ _ _ _ => false
  | .getAuto => false
  | .setAuto _ => false
  | .setEnabled _ => false
  | .beginUpdate => false
  | .endUpdate => false
  | .transmit _ _ => false
  | .sendPacket _ _ => false
  | .sendPackets _ => false
  | .sendAll _ => false
  | .sendPwm _ _ _ => false
  | .sendCorr _ _ _ _ => false

/-- The operations that are one SEND_PACKET (42_chain_controller.md R128, R132 to R134). -/
def sendsOne : Instr → Bool
  | .pktPwm _ _ _ _ => false
  | .pktCorr _ _ _ _ _ _ _ _ _ _ => false
  | .buildPwm _ _ _ => false
  | .buildCorr _ _ _ _ => false
  | .rawValue _ => false
  | .modeOf _ => false
  | .pwmView _ => false
  | .corrView _ => false
  | .decodeView _ => false
  | .setTracking _ => false
  | .trkWrite _ => false
  | .getState _ => false
  | .saveState => false
  | .restoreState _ => false
  | .newChain _ _ => false
  | .setup3 _ _ _ => false
  | .setup4 _ _ _ _ => false
  | .getAuto => false
  | .setAuto _ => false
  | .setEnabled _ => false
  | .beginUpdate => false
  | .endUpdate => false
  | .transmit _ _ => false
  | .sendPacket _ _ => true
  | .sendPackets _ => false
  | .sendAll _ => true
  | .sendPwm _ _ _ => true
  | .sendCorr _ _ _ _ => true

/-- Neither a reset of the ring or of the tracker nor one of the two internal operations, whose pairing R113 of
41_ring_tracker.md speaks of. -/
def keepsPairing : Instr → Bool
  | .pktPwm _ _ _ _ => true
  | .pktCorr _ _ _ _ _ _ _ _ _ _ => true
  | .buildPwm _ _ _ => true
  | .buildCorr _ _ _ _ => true
  | .rawValue _ => true
  | .modeOf _ => true
  | .pwmView _ => true
  | .corrView _ => true
  | .decodeView _ => true
  | .setTracking _ => false
  | .trkWrite _ => false
  | .getState _ => true
  | .saveState => true
  | .restoreState _ => true
  | .newChain _ _ => false
  | .setup3 _ _ _ => true
  | .setup4 _ _ _ _ => true
  | .getAuto => true
  | .setAuto _ => true
  | .setEnabled _ => true
  | .beginUpdate => true
  | .endUpdate => true
  | .transmit _ _ => false
  | .sendPacket _ _ => true
  | .sendPackets _ => true
  | .sendAll _ => true
  | .sendPwm _ _ _ => true
  | .sendCorr _ _ _ _ => true

/-- The packets an operation sends, in the order it sends them, on a chain of length `l` (42_chain_controller.md R136). -/
def packetsOf (l : Nat) : Instr → List Packet
  | .pktPwm _ _ _ _ => []
  | .pktCorr _ _ _ _ _ _ _ _ _ _ => []
  | .buildPwm _ _ _ => []
  | .buildCorr _ _ _ _ => []
  | .rawValue _ => []
  | .modeOf _ => []
  | .pwmView _ => []
  | .corrView _ => []
  | .decodeView _ => []
  | .setTracking _ => []
  | .trkWrite _ => []
  | .getState _ => []
  | .saveState => []
  | .restoreState ps => ps.reverse
  | .newChain _ _ => []
  | .setup3 _ _ _ => []
  | .setup4 _ _ _ _ => []
  | .getAuto => []
  | .setAuto _ => []
  | .setEnabled _ => []
  | .beginUpdate => []
  | .endUpdate => []
  | .transmit _ _ => []
  | .sendPacket p n => List.replicate n p
  | .sendPackets ps => ps
  | .sendAll p => List.replicate l p
  | .sendPwm a b c => [buildPwm a b c]
  | .sendCorr a b c m => [buildCorr a b c m]

/-- How many latch pulses the wire trace holds. -/
def latches (s : State) : Nat := s.trace.count .latch

/-- Operations one after the other. -/
def runAll : List Instr → State → Host.Outcome State Fault Refusal
  | [], s => .next s
  | i :: rest, s => andThen (exec i s) (runAll rest)

/-- Not a fault: what a safe step answers. -/
def notFault (o : Host.Outcome State Fault Refusal) : Bool :=
  match o with
  | .next _ => true
  | .fault _ => false
  | .refused _ => true

end Sys2Proof.Machine
end

