-- ==== Sys2Proof/Certificates/Slice0/Obligations.lean ====
section
/-! DEFINITION. The statements for the provers. -/

open Sys2Proof Sys2Proof.Machine

/-! ## The codec -/

/-- 40_packet_codec.md R84, 30_encoding.md R67: BUILD_PWM puts the low 10 bits of each operand at its position, bits 30
and 31 are 0, no operand is an error and nothing else changes. -/
def Obligations.BuildPwmAssemblesFields : Prop :=
  ∀ (s : State) (a b c : Nat), s.constructed = true → ∃ p : Packet,
    exec (.buildPwm a b c) s = .next { s with response := ⟨.ok, .packet p⟩ }
    ∧ p.toNat = (c % 1024) * 2 ^ 20 + (b % 1024) * 2 ^ 10 + a % 1024

/-- 40_packet_codec.md R85, 30_encoding.md R68: BUILD_CORR sets the mode flag and puts the low 7, 7, 7 and 2 bits of its
operands at their positions, every other bit 0, and nothing else changes. -/
def Obligations.BuildCorrAssemblesFields : Prop :=
  ∀ (s : State) (c0 c1 c2 m : Nat), s.constructed = true → ∃ p : Packet,
    exec (.buildCorr c0 c1 c2 m) s = .next { s with response := ⟨.ok, .packet p⟩ }
    ∧ p.toNat = 2 ^ 30 + (c2 % 128) * 2 ^ 20 + (c1 % 128) * 2 ^ 10 + (m % 4) * 2 ^ 7 + c0 % 128

/-- 40_packet_codec.md R86, R87: RAW_VALUE is the identity and MODE_OF is bit 30; nothing else changes. -/
def Obligations.RawValueAndModeOf : Prop :=
  ∀ (s : State) (p : Packet), s.constructed = true →
    exec (.rawValue p) s = .next { s with response := ⟨.ok, .raw p⟩ }
    ∧ exec (.modeOf p) s = .next { s with response := ⟨.ok, .mode (BitVec.ofBool (p.getLsbD 30))⟩ }

/-- 40_packet_codec.md R88, R89, 30_encoding.md R69: both views are slices of the packet whatever its mode flag. -/
def Obligations.ViewsAreSlices : Prop :=
  ∀ (s : State) (p : Packet), s.constructed = true → ∃ (f : PwmFields) (g : CorrFields),
    exec (.pwmView p) s = .next { s with response := ⟨.ok, .pwmView f⟩ }
    ∧ exec (.corrView p) s = .next { s with response := ⟨.ok, .corrView g⟩ }
    ∧ f.ch0.toNat = p.toNat % 2 ^ 10 ∧ f.ch1.toNat = p.toNat / 2 ^ 10 % 2 ^ 10
    ∧ f.ch2.toNat = p.toNat / 2 ^ 20 % 2 ^ 10
    ∧ g.correct0.toNat = p.toNat % 2 ^ 7 ∧ g.correct1.toNat = p.toNat / 2 ^ 10 % 2 ^ 7
    ∧ g.correct2.toNat = p.toNat / 2 ^ 20 % 2 ^ 7 ∧ g.clockMode.toNat = p.toNat / 2 ^ 7 % 2 ^ 2
    ∧ g.atb0.toNat = p.toNat / 2 ^ 28 % 2 ∧ g.atb1.toNat = p.toNat / 2 ^ 29 % 2

/-- 40_packet_codec.md R90: DECODE answers the one view that bit 30 selects, the PWM view at 0 and the correction view
at 1, with the same fields as PWM_VIEW and CORR_VIEW. -/
def Obligations.DecodeSelectsView : Prop :=
  ∀ (s : State) (p : Packet), s.constructed = true → ∃ (f : PwmFields) (g : CorrFields),
    exec (.pwmView p) s = .next { s with response := ⟨.ok, .pwmView f⟩ }
    ∧ exec (.corrView p) s = .next { s with response := ⟨.ok, .corrView g⟩ }
    ∧ exec (.decodeView p) s =
        .next { s with response := ⟨.ok, .view (if p.getLsbD 30 then .corr g else .pwm f)⟩ }

/-- The two packet rows (the model's choice, log 7): a word in a format, every bit of it named as 30_encoding.md R60 and
R63 do, is answered with the fields of that format; the unused bit and the pads are not reported. -/
def Obligations.PacketRowsAnswerTheirFields : Prop :=
  (∀ (s : State) (u : BitVec 1) (c2 c1 c0 : BitVec 10), s.constructed = true →
    exec (.pktPwm u c2 c1 c0) s = .next { s with response := ⟨.ok, .view (.pwm ⟨c0, c1, c2⟩)⟩ })
  ∧ ∀ (s : State) (u t1 t0 p27 : BitVec 1) (c2 : BitVec 7) (p19 : BitVec 3) (c1 : BitVec 7) (p9 : BitVec 1)
      (m : BitVec 2) (c0 : BitVec 7), s.constructed = true →
      exec (.pktCorr u t1 t0 p27 c2 p19 c1 p9 m c0) s
        = .next { s with response := ⟨.ok, .view (.corr ⟨c0, c1, c2, m, t0, t1⟩)⟩ }

/-- A packet word at the port is answered as DECODE of it (the model's choice, log 7). -/
def Obligations.PacketWordIsDecoded : Prop :=
  ∀ (s : State) (w : Packet) (rest : List Stimulus), s.port = .operation (.packet w) :: rest →
    step s = exec (.decodeView w) { s with port := rest }

/-- 40_packet_codec.md R91: for operands of any size the PWM view of what BUILD_PWM made gives them back modulo 1024, its
mode is 0 and DECODE answers that view. -/
def Obligations.PwmRoundTrip : Prop :=
  ∀ (s : State) (a b c : Nat), s.constructed = true → ∃ p : Packet,
    exec (.buildPwm a b c) s = .next { s with response := ⟨.ok, .packet p⟩ }
    ∧ ∃ f : PwmFields, f.ch0.toNat = a % 1024 ∧ f.ch1.toNat = b % 1024 ∧ f.ch2.toNat = c % 1024
      ∧ ∀ t : State, t.constructed = true →
        exec (.pwmView p) t = .next { t with response := ⟨.ok, .pwmView f⟩ }
        ∧ exec (.modeOf p) t = .next { t with response := ⟨.ok, .mode 0#1⟩ }
        ∧ exec (.decodeView p) t = .next { t with response := ⟨.ok, .view (.pwm f)⟩ }

/-- 40_packet_codec.md R92: the same for BUILD_CORR, modulo 128 and 4, test bits 0, mode 1. -/
def Obligations.CorrRoundTrip : Prop :=
  ∀ (s : State) (a b c m : Nat), s.constructed = true → ∃ p : Packet,
    exec (.buildCorr a b c m) s = .next { s with response := ⟨.ok, .packet p⟩ }
    ∧ ∃ g : CorrFields, g.correct0.toNat = a % 128 ∧ g.correct1.toNat = b % 128 ∧ g.correct2.toNat = c % 128
      ∧ g.clockMode.toNat = m % 4 ∧ g.atb0 = 0#1 ∧ g.atb1 = 0#1
      ∧ ∀ t : State, t.constructed = true →
        exec (.corrView p) t = .next { t with response := ⟨.ok, .corrView g⟩ }
        ∧ exec (.modeOf p) t = .next { t with response := ⟨.ok, .mode 1#1⟩ }
        ∧ exec (.decodeView p) t = .next { t with response := ⟨.ok, .view (.corr g)⟩ }

/-- 40_packet_codec.md R93: the two formats never alias: the modes differ, so no value comes from both builders, and
DECODE never answers the other view. -/
def Obligations.FormatsAreIsolated : Prop :=
  ∀ (s : State) (a b c d e f m : Nat), s.constructed = true → ∃ p q : Packet,
    exec (.buildPwm a b c) s = .next { s with response := ⟨.ok, .packet p⟩ }
    ∧ exec (.buildCorr d e f m) s = .next { s with response := ⟨.ok, .packet q⟩ }
    ∧ p ≠ q
    ∧ ∀ t : State, t.constructed = true →
      exec (.modeOf p) t = .next { t with response := ⟨.ok, .mode 0#1⟩ }
      ∧ exec (.modeOf q) t = .next { t with response := ⟨.ok, .mode 1#1⟩ }
      ∧ (∃ v, exec (.decodeView p) t = .next { t with response := ⟨.ok, .view (.pwm v)⟩ })
      ∧ ∃ v, exec (.decodeView q) t = .next { t with response := ⟨.ok, .view (.corr v)⟩ }

/-- From 30_encoding.md A.3: which packets the builders can return. -/
def Obligations.CanonicalPackets : Prop :=
  ∀ (s : State) (p : Packet), s.constructed = true →
    ((∃ a b c, exec (.buildPwm a b c) s = .next { s with response := ⟨.ok, .packet p⟩ })
      ↔ p &&& 0xC0000000#32 = 0#32)
    ∧ ((∃ a b c m, exec (.buildCorr a b c m) s = .next { s with response := ⟨.ok, .packet p⟩ })
      ↔ p &&& 0xF80E0200#32 = 0x40000000#32)

/-- 40_packet_codec.md R95: building again from a view gives the packet back when it is one the builder can return;
otherwise the unused, pad and test-mode bits are cleared. -/
def Obligations.ReEncoding : Prop :=
  ∀ (s : State) (p : Packet), s.constructed = true → ∃ (f : PwmFields) (g : CorrFields) (q r : Packet),
    exec (.pwmView p) s = .next { s with response := ⟨.ok, .pwmView f⟩ }
    ∧ exec (.corrView p) s = .next { s with response := ⟨.ok, .corrView g⟩ }
    ∧ exec (.buildPwm f.ch0.toNat f.ch1.toNat f.ch2.toNat) s = .next { s with response := ⟨.ok, .packet q⟩ }
    ∧ exec (.buildCorr g.correct0.toNat g.correct1.toNat g.correct2.toNat g.clockMode.toNat) s
        = .next { s with response := ⟨.ok, .packet r⟩ }
    ∧ q = p &&& 0x3FFFFFFF#32
    ∧ r = (p &&& 0x07F1FDFF#32) ||| 0x40000000#32
    ∧ (p &&& 0xC0000000#32 = 0#32 → q = p)
    ∧ (p &&& 0xF80E0200#32 = 0x40000000#32 → r = p)

/-- 30_encoding.md R64: how the PWM fields are made of the correction fields and the pads of the same bits. -/
def Obligations.ViewsOverlap : Prop :=
  ∀ (s : State) (p : Packet), s.constructed = true → ∃ (f : PwmFields) (g : CorrFields),
    exec (.pwmView p) s = .next { s with response := ⟨.ok, .pwmView f⟩ }
    ∧ exec (.corrView p) s = .next { s with response := ⟨.ok, .corrView g⟩ }
    ∧ f.ch0.toNat = g.correct0.toNat + 128 * g.clockMode.toNat + 512 * (p.toNat / 2 ^ 9 % 2)
    ∧ f.ch1.toNat = g.correct1.toNat + 128 * (p.toNat / 2 ^ 17 % 8)
    ∧ f.ch2.toNat = g.correct2.toNat + 128 * (p.toNat / 2 ^ 27 % 2) + 256 * g.atb0.toNat + 512 * g.atb1.toNat

/-- From 40_packet_codec.md section 1: once a NEW_CHAIN has been performed the codec's operations are never refused, have
no failure result, answer what depends on their operands alone, and change no state but the response port, before or
after a setup, with or without tracking, in either state of the update cycle. (Before the first NEW_CHAIN they are
refused with every other operation: the model's reading of R81 beside R148, log 8.) -/
def Obligations.CodecIsPure : Prop :=
  ∀ i : Instr, isCodec i = true →
    ∃ r : Result, ∀ s : State, s.constructed = true → exec i s = .next { s with response := ⟨.ok, r⟩ }

/-! ## The tracker -/

/-- 41_ring_tracker.md R98: SET_TRACKING in each of its cases: the first enable that the storage allows allocates a
whole ring with the head at the sentinel; one that it does not allow fails and leaves tracking off; a later enable
touches nothing but `trk_en`; a disable clears `trk_en` and nothing else. -/
def Obligations.SetTrackingRule : Prop :=
  ∀ s : State, s.constructed = true →
    (s.trkAlloc = false → s.chainLen ≤ s.cfg.capacity →
      ∃ t, exec (.setTracking true) s = .next t
        ∧ t = { s with trkAlloc := true, trkEn := true, head := s.chainLen, buf := t.buf, draws := t.draws,
                       response := ⟨.ok, .bool true⟩ }
        ∧ t.ringWhole ∧ ∀ a, a < s.chainLen → ∃ v, Memory.read t.buf a = some v)
    ∧ (s.trkAlloc = false → s.cfg.capacity < s.chainLen →
      exec (.setTracking true) s = .next { s with trkEn := false, response := ⟨.enableFailed, .bool false⟩ })
    ∧ (s.trkAlloc = true →
      exec (.setTracking true) s = .next { s with trkEn := true, response := ⟨.ok, .bool true⟩ })
    ∧ exec (.setTracking false) s = .next { s with trkEn := false, response := ⟨.ok, .bool false⟩ }

/-- 41_ring_tracker.md R99: after an allocation a second SET_TRACKING(1), whether or not a SET_TRACKING(0) came
between, leaves the head and every slot as they are; after a failed enable a later one fails again. -/
def Obligations.AllocationHappensOnce : Prop :=
  ∀ s : State, s.constructed = true →
    (s.trkAlloc = true → ∃ t u,
      runAll [.setTracking true] s = .next t ∧ t.head = s.head ∧ t.buf = s.buf ∧ t.trkAlloc = true ∧ t.trkEn = true
      ∧ runAll [.setTracking false, .setTracking true] s = .next u
      ∧ u.head = s.head ∧ u.buf = s.buf ∧ u.trkAlloc = true ∧ u.trkEn = true)
    ∧ (s.trkAlloc = false → s.cfg.capacity < s.chainLen → ∃ t,
      runAll [.setTracking true, .setTracking true] s = .next t
      ∧ t.response = ⟨.enableFailed, .bool false⟩ ∧ t.trkAlloc = false ∧ t.trkEn = false)

/-- 41_ring_tracker.md R101: TRK_WRITE, as the controller performs it. With tracking on it moves the head down by one,
wrapping at 0, stores all 32 bits at the new head, and every other slot reads as before; with tracking off it does
nothing. Nothing else changes. -/
def Obligations.TrkWriteRule : Prop :=
  ∀ (s : State) (p : Packet), s.constructed = true →
    (s.trkEn = true → 1 ≤ s.chainLen → s.ringWhole →
      ∃ t, exec (.trkWrite p) s = .next t
        ∧ t = { s with head := if s.head = 0 then s.chainLen - 1 else s.head - 1, buf := t.buf, response := .done }
        ∧ Memory.read t.buf t.head = some p
        ∧ (∀ a, a ≠ t.head → Memory.read t.buf a = Memory.read s.buf a)
        ∧ t.ringWhole ∧ t.head < s.chainLen)
    ∧ (s.trkEn = false → exec (.trkWrite p) s = .next { s with response := .done })

/-- 41_ring_tracker.md R103: GET_STATE answers the slot `(head + index) mod L`, the sum not truncated, or
NOT_AVAILABLE when the index is out of range or tracking is disabled; no state changes. -/
def Obligations.GetStateRule : Prop :=
  ∀ (s : State) (index : Nat), s.constructed = true →
    (index < s.chainLen → s.trkEn = true → s.ringWhole →
      ∃ p, Memory.read s.buf ((s.head + index) % s.chainLen) = some p
        ∧ exec (.getState index) s = .next { s with response := ⟨.ok, .packet p⟩ })
    ∧ (s.chainLen ≤ index ∨ s.trkEn = false →
      exec (.getState index) s = .next { s with response := ⟨.notAvailable, .nothing⟩ })

/-- 41_ring_tracker.md R104: SAVE_STATE answers the L packets from the head on, nearest chip first, or the empty
sequence when tracking is disabled or nothing has been written; no state changes. -/
def Obligations.SaveStateRule : Prop :=
  ∀ s : State, s.constructed = true →
    (s.trkEn = true → s.head ≠ s.chainLen → s.ringWhole →
      ∃ ps : List Packet, ps.length = s.chainLen
        ∧ (∀ k, k < s.chainLen → ps[k]? = Memory.read s.buf ((s.head + k) % s.chainLen))
        ∧ exec .saveState s = .next { s with response := ⟨.ok, .seq ps⟩ })
    ∧ (s.trkEn = false ∨ s.head = s.chainLen →
      exec .saveState s = .next { s with response := ⟨.empty, .seq []⟩ })

/-- 41_ring_tracker.md R112: whenever SAVE_STATE returns a sequence that is not EMPTY, GET_STATE of every position
returns its element. -/
def Obligations.SaveAndGetAgree : Prop :=
  ∀ (s : State) (ps : List Packet), exec .saveState s = .next { s with response := ⟨.ok, .seq ps⟩ } →
    ∀ k, k < s.chainLen → ∃ p, ps[k]? = some p
      ∧ exec (.getState k) s = .next { s with response := ⟨.ok, .packet p⟩ }

/-- 10_state.md R33: the head after `m` ring writes since allocation. -/
def Obligations.HeadLaw : Prop :=
  ∀ (s : State) (ps : List Packet), s.constructed = true → s.trkEn = true → 1 ≤ s.chainLen → s.ringWhole →
    s.head = s.chainLen →
    ∃ t, runAll (ps.map Instr.trkWrite) s = .next t
      ∧ t.head = if ps.length = 0 then s.chainLen
          else (s.chainLen - ps.length % s.chainLen) % s.chainLen

/-- From 10_state.md section 2 and section 3: once allocated and written, the ring stays so through every operation but
NEW_CHAIN: the head never returns to the sentinel, the slots stay exactly 0 to L-1. -/
def Obligations.HeadNeverReturnsToSentinel : Prop :=
  ∀ (s t : State) (i : Instr), s.wf → s.trkAlloc = true → s.head < s.chainLen →
    (∀ n b, i ≠ .newChain n b) → exec i s = .next t →
    t.trkAlloc = true ∧ t.head < t.chainLen ∧ t.ringWhole

/-- 41_ring_tracker.md R106: RESTORE_STATE of a sequence of length L is SEND_PACKETS of it reversed, and completes:
the bits of the far-end packet go first, one latch follows, auto-update is as before; any other length is refused. -/
def Obligations.RestoreStateRule : Prop :=
  ∀ (s : State) (ps : List Packet), s.constructed = true →
    (ps.length ≠ s.chainLen → exec (.restoreState ps) s = .refused .misSizedSequence)
    ∧ (ps.length = s.chainLen → exec (.restoreState ps) s = exec (.sendPackets ps.reverse) s)
    ∧ (ps.length = s.chainLen → s.sendReady → s.updState = .idle → s.chainLen < 2 ^ s.cfg.countW →
      ∃ t, exec (.restoreState ps) s = .next t
        ∧ ringAfter ps.reverse s t
        ∧ t = { s with sentCount := s.chainLen, head := t.head, buf := t.buf,
                       trace := s.trace ++ wireOf ps.reverse ++ [.latch],
                       pinCalls := s.pinCalls ++ callsOf s ps.reverse ++ latchCalls s,
                       sh := chainAfter ps.reverse s.sh, out := chainAfter ps.reverse s.sh, response := .done })

/-- 41_ring_tracker.md R109: restoring a sequence and saving gives it back, whatever the ring held before. -/
def Obligations.RestoreThenSaveIsIdentity : Prop :=
  ∀ (s : State) (ps : List Packet), s.sendReady → s.trkEn = true → s.updState = .idle → ps.length = s.chainLen →
    ∃ t, exec (.restoreState ps) s = .next t
      ∧ exec .saveState t = .next { t with response := ⟨.ok, .seq ps⟩ }

/-- 41_ring_tracker.md R110: after L sends, SAVE_STATE returns them newest first. -/
def Obligations.SaveAfterSends : Prop :=
  ∀ (s : State) (ps : List Packet), s.sendReady → s.trkEn = true → (s.autoUpdate = true → s.updState = .idle) →
    ps.length = s.chainLen →
    ∃ t, runAll (ps.map fun p => .sendPacket p 1) s = .next t
      ∧ exec .saveState t = .next { t with response := ⟨.ok, .seq ps.reverse⟩ }

/-- 41_ring_tracker.md R111: SEND_ALL(P) and L times SEND_PACKET(P) leave the same ring, every slot P; under
auto-update the first latches once and the second L times. -/
def Obligations.BroadcastEquivalence : Prop :=
  ∀ (s : State) (p : Packet), s.sendReady → s.trkEn = true → (s.autoUpdate = true → s.updState = .idle) →
    s.chainLen < 2 ^ s.cfg.countW →
    ∃ t u, exec (.sendAll p) s = .next t
      ∧ runAll (List.replicate s.chainLen (.sendPacket p 1)) s = .next u
      ∧ t.head = u.head ∧ t.buf = u.buf
      ∧ (∀ a, a < s.chainLen → Memory.read t.buf a = some p)
      ∧ exec .saveState t = .next { t with response := ⟨.ok, .seq (List.replicate s.chainLen p)⟩ }
      ∧ exec .saveState u = .next { u with response := ⟨.ok, .seq (List.replicate s.chainLen p)⟩ }
      ∧ (s.autoUpdate = true → latches t = latches s + 1 ∧ latches u = latches s + s.chainLen)

/-- 10_state.md R31 and the partial fill of R32: over a run of operations that leave the tracker on and the ring
paired with the wire, after `m` packets have been sent the first `m` logical positions hold them, newest first, and
equal what the chips have shifted in. (A SETUP in the run that names other pins leaves the same chips attached: the
model's choice, log 11, where 70_reset_and_hazards.md R179 speaks of a second chain.) -/
def Obligations.RingMirrorsChain : Prop :=
  ∀ (s t : State) (is : List Instr), s.wf → s.trkEn = true → (∀ i ∈ is, keepsPairing i = true) →
    runAll is s = .next t →
    t.trkEn = true ∧ t.chainLen = s.chainLen
    ∧ t.mirrors (is.flatMap (packetsOf s.chainLen)).length
    ∧ ∀ k, k < s.chainLen → k < (is.flatMap (packetsOf s.chainLen)).length →
        readPosition t k = (is.flatMap (packetsOf s.chainLen)).reverse[k]?

/-- From 41_ring_tracker.md R100 and 70_reset_and_hazards.md R170: what is sent while tracking is disabled is not
recorded, so after re-enabling SAVE_STATE returns what it returned before, while the chain has moved on. -/
def Obligations.DisabledTrackerGoesStale : Prop :=
  ∀ (s : State) (ps : List Packet), s.sendReady → s.trkEn = true → s.trkAlloc = true →
    (s.autoUpdate = true → s.updState = .idle) →
    ∃ t, runAll (.setTracking false :: ps.map (fun p => .sendPacket p 1) ++ [.setTracking true]) s = .next t
      ∧ t.head = s.head ∧ t.buf = s.buf ∧ t.trkEn = true ∧ t.sh = chainAfter ps s.sh

/-! ## The controller -/

/-- From 42_chain_controller.md R116 and the table of 10_state.md R36: NEW_CHAIN of a positive length resets the block
from any state, one without a defined state included; length 0 is refused. The count is only within its width. The
chips' registers are as many as are wired, and as the chain length says where the configuration does not say (the
model's choice, log 11), their contents are not stated; the record of pin calls is emptied with the wire trace (the
model's choice, log 15). -/
def Obligations.NewChainResets : Prop :=
  ∀ (s : State) (n : Nat) (b : Bool),
    (n ≠ 0 → ∃ t, exec (.newChain n b) s = .next t
      ∧ t.constructed = true ∧ t.chainLen = n ∧ t.autoUpdate = b ∧ t.updState = .idle
      ∧ t.setupDone = false ∧ t.hasNoe = false ∧ t.trkAlloc = false ∧ t.trkEn = false ∧ t.buf = []
      ∧ t.trace = [] ∧ t.pinCalls = [] ∧ t.sentCount < 2 ^ t.cfg.countW ∧ t.response = .done
      ∧ t.sh.length = s.cfg.wired.getD n ∧ t.out.length = s.cfg.wired.getD n
      ∧ t.cfg = s.cfg ∧ t.port = s.port)
    ∧ exec (.newChain 0 b) s = .refused .zeroLength

/-- 42_chain_controller.md R117: SETUP3. -/
def Obligations.Setup3Rule : Prop :=
  ∀ (s : State) (d c l : PinId), s.constructed = true →
    exec (.setup3 d c l) s =
      .next { s with pinData := d, pinClock := c, pinLatch := l, hasNoe := false, setupDone := true,
                     pinCalls := s.pinCalls ++
                       [.configurePin d true, .configurePin c true, .configurePin l true],
                     response := .done }

/-- 42_chain_controller.md R118: SETUP4; it does not drive the not-enable line. -/
def Obligations.Setup4Rule : Prop :=
  ∀ (s : State) (d c l e : PinId), s.constructed = true →
    exec (.setup4 d c l e) s =
      .next { s with pinData := d, pinClock := c, pinLatch := l, pinNoe := e, hasNoe := true, setupDone := true,
                     pinCalls := s.pinCalls ++
                       [.configurePin d true, .configurePin c true, .configurePin l true, .configurePin e true],
                     response := .done }

/-- 42_chain_controller.md R119, R120: GET_AUTO reads `auto_update` and SET_AUTO writes it. -/
def Obligations.AutoUpdateFlag : Prop :=
  ∀ (s : State) (b : Bool), s.constructed = true →
    exec .getAuto s = .next { s with response := ⟨.ok, .bool s.autoUpdate⟩ }
    ∧ exec (.setAuto b) s = .next { s with autoUpdate := b, response := .done }

/-- 42_chain_controller.md R121: SET_ENABLED drives the not-enable line low to activate and high to deactivate, and is a
no-op without one. -/
def Obligations.SetEnabledRule : Prop :=
  ∀ (s : State) (active : Bool), s.constructed = true →
    (s.hasNoe = true → exec (.setEnabled active) s =
      .next { s with pinCalls := s.pinCalls ++ [.writePin s.pinNoe (!active)],
                     trace := s.trace ++ [.notEnable (!active)], response := .done })
    ∧ (s.hasNoe = false → exec (.setEnabled active) s = .next { s with response := .done })

/-- 42_chain_controller.md R123: BEGIN_UPDATE. -/
def Obligations.BeginUpdateRule : Prop :=
  ∀ s : State, s.constructed = true →
    (s.updState = .idle →
      exec .beginUpdate s = .next { s with updState := .updating, sentCount := 0, response := .done })
    ∧ (s.updState = .updating → exec .beginUpdate s = .refused .nestedUpdate)

/-- 42_chain_controller.md R124 with the pulse of R125: END_UPDATE returns the count and keeps it, goes to Idle, and
issues one latch pulse, at which the outputs adopt the shift registers, exactly when something was counted. -/
def Obligations.EndUpdateRule : Prop :=
  ∀ s : State, s.constructed = true →
    (s.updState = .updating → 0 < s.sentCount →
      exec .endUpdate s = .next { s with
        updState := .idle, trace := s.trace ++ [.latch],
        pinCalls := s.pinCalls ++
          [.writePin s.pinLatch true, .delayMicroseconds s.cfg.tLatch, .writePin s.pinLatch false],
        out := s.sh, response := ⟨.ok, .count s.sentCount⟩ })
    ∧ (s.updState = .updating → s.sentCount = 0 →
      exec .endUpdate s = .next { s with updState := .idle, response := ⟨.ok, .count 0⟩ })
    ∧ (s.updState = .idle → exec .endUpdate s = .refused .endWithoutBegin)

/-- 20_memory.md R44, 30_encoding.md R79: packets put on the wire one after the other, each with its repeat count, are
exactly 32 `Shift` events each, bit 31 first and bit 0 last, with nothing before, between or after them (after a setup and with counts
of at least 1, as SEND_PACKET performs TRANSMIT). -/
def Obligations.WireOrderIsMsbFirst : Prop :=
  ∀ (s : State) (xs : List (Packet × Nat)) (ps : List Packet), s.constructed = true → s.setupDone = true →
    (∀ x ∈ xs, 1 ≤ x.2) → ps = (xs.flatMap fun x => List.replicate x.2 x.1) →
    ∃ (t : State) (es : List WireEvent), runAll (xs.map fun x => .transmit x.1 x.2) s = .next t
      ∧ t.trace = s.trace ++ es ∧ es.length = 32 * ps.length
      ∧ ∀ k p, ps[k]? = some p → ∀ i, i < 32 → es[32 * k + i]? = some (.shift (p.getLsbD (31 - i)))

/-- 20_memory.md R45: after L sends to a chain of L chips, the packet sent first is in the far-end chip and the packet
sent last in the nearest one. -/
def Obligations.FirstSentEndsFurthest : Prop :=
  ∀ (s : State) (ps : List Packet), s.sendReady → (s.autoUpdate = true → s.updState = .idle) →
    s.sh.length = s.chainLen → ps.length = s.chainLen →
    ∃ t, runAll (ps.map fun p => .sendPacket p 1) s = .next t
      ∧ t.sh.length = s.chainLen ∧ ∀ k, k < s.chainLen → t.sh[k]? = ps[s.chainLen - 1 - k]?

/-- 42_chain_controller.md R126 with the pin calls of R127: TRANSMIT, as SEND_PACKET performs it (after a setup, with
`n >= 1`), puts the packet on the wire `n` times, 32 bits each, moves the chain `n` chips, and neither latches, counts nor
tells the tracker. -/
def Obligations.TransmitRule : Prop :=
  ∀ (s : State) (p : Packet) (n : Nat), s.constructed = true → s.setupDone = true → 1 ≤ n →
    (wireOf (List.replicate n p)).length = 32 * n
    ∧ (∀ b, shiftBitCalls s b =
        [.writePin s.pinData b, .delayMicroseconds s.cfg.tSettle, .writePin s.pinClock true,
         .delayMicroseconds s.cfg.tSettle, .writePin s.pinClock false])
    ∧ exec (.transmit p n) s = .next { s with
        trace := s.trace ++ wireOf (List.replicate n p), pinCalls := s.pinCalls ++ callsOf s (List.replicate n p),
        sh := chainAfter (List.replicate n p) s.sh, response := .done }

/-- 42_chain_controller.md R128: SEND_PACKET in each of its cases. The clauses of refusal are in the order in which the
rule tests them. -/
def Obligations.SendPacketRule : Prop :=
  ∀ (s : State) (p : Packet) (n : Nat), s.constructed = true →
    (s.setupDone = false → exec (.sendPacket p n) s = .refused .sendBeforeSetup)
    ∧ (s.setupDone = true → n = 0 → exec (.sendPacket p n) s = .refused .zeroRepeat)
    ∧ (s.setupDone = true → n ≠ 0 → s.autoUpdate = true → s.updState = .updating →
        exec (.sendPacket p n) s = .refused .nestedUpdate)
    ∧ (s.sendReady → n ≠ 0 → s.autoUpdate = false →
      ∃ t, exec (.sendPacket p n) s = .next t
        ∧ ringAfter (List.replicate n p) s t
        ∧ t = { s with sentCount := (s.sentCount + n) % 2 ^ s.cfg.countW, head := t.head, buf := t.buf,
                       trace := s.trace ++ wireOf (List.replicate n p),
                       pinCalls := s.pinCalls ++ callsOf s (List.replicate n p),
                       sh := chainAfter (List.replicate n p) s.sh, response := .done })
    ∧ (s.sendReady → n ≠ 0 → s.autoUpdate = true → s.updState = .idle →
      ∃ t, exec (.sendPacket p n) s = .next t
        ∧ ringAfter (List.replicate n p) s t
        ∧ t = { s with sentCount := n % 2 ^ s.cfg.countW, head := t.head, buf := t.buf,
                       trace := s.trace ++ wireOf (List.replicate n p)
                         ++ (if 0 < n % 2 ^ s.cfg.countW then [.latch] else []),
                       pinCalls := s.pinCalls ++ callsOf s (List.replicate n p)
                         ++ (if 0 < n % 2 ^ s.cfg.countW then latchCalls s else []),
                       sh := chainAfter (List.replicate n p) s.sh,
                       out := if 0 < n % 2 ^ s.cfg.countW then chainAfter (List.replicate n p) s.sh else s.out,
                       response := .done })

/-- 42_chain_controller.md R130: SEND_PACKETS in each of its cases: one cycle and one latch around the batch, whatever
auto-update was, element 0 first; an empty batch sends and latches nothing and needs no setup. -/
def Obligations.SendPacketsRule : Prop :=
  ∀ (s : State) (ps : List Packet), s.constructed = true →
    (s.updState = .updating → exec (.sendPackets ps) s = .refused .nestedUpdate)
    ∧ (s.updState = .idle → s.setupDone = false → ps ≠ [] → exec (.sendPackets ps) s = .refused .sendBeforeSetup)
    ∧ (s.updState = .idle →
        exec (.sendPackets []) s = .next { s with sentCount := 0, response := .done })
    ∧ (s.updState = .idle → s.sendReady → ps ≠ [] →
      ∃ t, exec (.sendPackets ps) s = .next t
        ∧ ringAfter ps s t
        ∧ t = { s with sentCount := ps.length % 2 ^ s.cfg.countW, head := t.head, buf := t.buf,
                       trace := s.trace ++ wireOf ps
                         ++ (if 0 < ps.length % 2 ^ s.cfg.countW then [.latch] else []),
                       pinCalls := s.pinCalls ++ callsOf s ps
                         ++ (if 0 < ps.length % 2 ^ s.cfg.countW then latchCalls s else []),
                       sh := chainAfter ps s.sh,
                       out := if 0 < ps.length % 2 ^ s.cfg.countW then chainAfter ps s.sh else s.out,
                       response := .done })

/-- 30_encoding.md R78, 42_chain_controller.md R132 to R134: SEND_ALL, SEND_PWM and SEND_CORR are their expansions, in
every state and for every operand, refusals included; the packet is the one the builder answers in every state after a
NEW_CHAIN; RESTORE_STATE of L packets is SEND_PACKETS of them reversed. -/
def Obligations.PseudoOperationsExpand : Prop :=
  ∀ a b c m : Nat, ∃ q r : Packet, ∀ (s : State) (p : Packet) (ps : List Packet),
    exec (.sendAll p) s = exec (.sendPacket p s.chainLen) s
    ∧ (ps.length = s.chainLen → exec (.restoreState ps) s = exec (.sendPackets ps.reverse) s)
    ∧ (s.constructed = true → exec (.buildPwm a b c) s = .next { s with response := ⟨.ok, .packet q⟩ })
    ∧ exec (.sendPwm a b c) s = exec (.sendPacket q 1) s
    ∧ (s.constructed = true → exec (.buildCorr a b c m) s = .next { s with response := ⟨.ok, .packet r⟩ })
    ∧ exec (.sendCorr a b c m) s = exec (.sendPacket r 1) s

/-- SEND_ALL, SEND_PWM and SEND_CORR complete, with the packets they put on the wire, and what else they change: the
count, the ring, the chips, and with auto-update one latch (from 42_chain_controller.md section 4). -/
def Obligations.SendShorthandsComplete : Prop :=
  ∀ (s : State) (p : Packet) (a b c m : Nat), s.sendReady → (s.autoUpdate = true → s.updState = .idle) →
    s.chainLen < 2 ^ s.cfg.countW → ∃ q r : Packet,
    q.toNat = (c % 1024) * 2 ^ 20 + (b % 1024) * 2 ^ 10 + a % 1024
    ∧ r.toNat = 2 ^ 30 + (c % 128) * 2 ^ 20 + (b % 128) * 2 ^ 10 + (m % 4) * 2 ^ 7 + a % 128
    ∧ ∀ x ∈ [(Instr.sendAll p, List.replicate s.chainLen p), (.sendPwm a b c, [q]), (.sendCorr a b c m, [r])],
      ∃ t, exec x.1 s = .next t
        ∧ ringAfter x.2 s t
        ∧ t = { s with sentCount := ((if s.autoUpdate then 0 else s.sentCount) + x.2.length) % 2 ^ s.cfg.countW,
                       head := t.head, buf := t.buf,
                       trace := s.trace ++ wireOf x.2 ++ (if s.autoUpdate then [.latch] else []),
                       pinCalls := s.pinCalls ++ callsOf s x.2 ++ (if s.autoUpdate then latchCalls s else []),
                       sh := chainAfter x.2 s.sh,
                       out := if s.autoUpdate then chainAfter x.2 s.sh else s.out,
                       response := .done }

/-- 42_chain_controller.md R139: how many latches each way of sending produces, the count not wrapping
(70_reset_and_hazards.md R176). -/
def Obligations.LatchCounts : Prop :=
  ∀ (s : State) (p : Packet) (n : Nat) (ps qs : List Packet), s.sendReady → n ≠ 0 →
    ps ≠ [] → ps.length < 2 ^ s.cfg.countW → qs.length = s.chainLen → s.chainLen < 2 ^ s.cfg.countW →
    (s.autoUpdate = true → s.updState = .idle →
      (∃ t, runAll (ps.map fun q => .sendPacket q 1) s = .next t ∧ latches t = latches s + ps.length)
      ∧ ∃ t, exec (.sendAll p) s = .next t ∧ latches t = latches s + 1)
    ∧ (s.autoUpdate = false →
      (∃ t, exec (.sendPacket p n) s = .next t ∧ latches t = latches s)
      ∧ ∃ t, exec (.sendAll p) s = .next t ∧ latches t = latches s)
    ∧ (s.autoUpdate = false → s.updState = .idle →
      ∃ t, runAll (.beginUpdate :: ps.map (fun q => .sendPacket q 1) ++ [.endUpdate]) s = .next t
        ∧ latches t = latches s + 1)
    ∧ (s.updState = .idle →
      (∃ t, exec (.sendPackets ps) s = .next t ∧ latches t = latches s + 1)
      ∧ ∃ t, exec (.restoreState qs) s = .next t ∧ latches t = latches s + 1)

/-- From 20_memory.md section 4 and 42_chain_controller.md section 3: an explicit cycle around any sends, each with its
repeat count, returns how many packets were sent (modulo the width of the count), leaves them in the ring and in the
chips, and latches once at the end. -/
def Obligations.UpdateCycleCountsAndLatchesOnce : Prop :=
  ∀ (s : State) (sends : List (Packet × Nat)), s.sendReady → s.autoUpdate = false → s.updState = .idle →
    (∀ x ∈ sends, x.2 ≠ 0) →
    ∃ t, runAll (.beginUpdate :: sends.map (fun x => .sendPacket x.1 x.2) ++ [.endUpdate]) s = .next t
      ∧ t.response = ⟨.ok, .count ((sends.map Prod.snd).sum % 2 ^ s.cfg.countW)⟩
      ∧ t.updState = .idle
      ∧ ringAfter (sends.flatMap fun x => List.replicate x.2 x.1) s t
      ∧ t.sh = chainAfter (sends.flatMap fun x => List.replicate x.2 x.1) s.sh
      ∧ t.trace = s.trace ++ wireOf (sends.flatMap fun x => List.replicate x.2 x.1)
          ++ (if 0 < (sends.map Prod.snd).sum % 2 ^ s.cfg.countW then [.latch] else [])
      ∧ t.out = if 0 < (sends.map Prod.snd).sum % 2 ^ s.cfg.countW then t.sh else s.out

/-! ## Refusals, reset, the port and the step -/

/-- From 60_exceptions.md section 2: exactly when an operation is refused, in every state a run can be in (the codec's
operations too before the first NEW_CHAIN: the model's reading of R81 beside R148, log 8). -/
def Obligations.RefusedExactlyAsListed : Prop :=
  ∀ (s : State) (i : Instr), s.wf →
    ((∃ r, exec i s = .refused r) ↔
      (s.constructed = false ∧ ∀ n b, i ≠ .newChain n b)
      ∨ (∃ b, i = .newChain 0 b)
      ∨ (s.constructed = true ∧
          ((s.setupDone = false ∧ (sendsOne i = true
              ∨ ∃ ps, ps ≠ [] ∧ (i = .sendPackets ps ∨ i = .restoreState ps)))
          ∨ (∃ p, i = .sendPacket p 0)
          ∨ (∃ ps, i = .restoreState ps ∧ ps.length ≠ s.chainLen)
          ∨ (s.updState = .updating ∧ (i = .beginUpdate ∨ (∃ ps, i = .sendPackets ps ∨ i = .restoreState ps)
              ∨ (s.autoUpdate = true ∧ sendsOne i = true)))
          ∨ (s.updState = .idle ∧ i = .endUpdate))))

/-- From 60_exceptions.md section 2 (BEFORE_RESET) and 70_reset_and_hazards.md section 1: before the first NEW_CHAIN every
operation but NEW_CHAIN is refused (the codec's too: the model's reading of R81 beside R148, log 8). -/
def Obligations.BeforeResetRefused : Prop :=
  ∀ (s : State) (i : Instr), s.constructed = false → (∀ n b, i ≠ .newChain n b) →
    exec i s = .refused .beforeReset

/-- 30_encoding.md R75: the reserved codes and the two internal operations are refused at the port, whatever operands
stand beside them. -/
def Obligations.PortRefusesReservedAndInternal : Prop :=
  (∀ (s : State) (code : Nat) (bs : List Byte) (pins : List PinId) (rest : List Stimulus),
    code ∈ [0x07, 0x0D, 0x0E, 0x0F, 0x1E, 0x1F] →
    s.port = .operation (.command (BitVec.ofNat 8 code :: bs) pins) :: rest →
    step s = .refused (.reservedOp (BitVec.ofNat 5 code)))
  ∧ ∀ (s : State) (p : Presented) (i : Instr) (rest : List Stimulus),
    s.port = .operation p :: rest → decode s.cfg p = .ok i → i.internal = true → step s = .refused .internalOp

/-- A step performs the operation that is presented: when what stands first at the port decodes to an operation of the
caller's, the step is that operation on the state with it taken off the port (from 10_state.md R14). -/
def Obligations.StepRunsPresentedOperation : Prop :=
  ∀ (s : State) (p : Presented) (i : Instr) (rest : List Stimulus),
    s.port = .operation p :: rest → decode s.cfg p = .ok i → i.internal = false →
    step s = exec i { s with port := rest }

/-- With nothing presented nothing happens (from 60_exceptions.md R149; log 14). -/
def Obligations.NothingPresentedNothingHappens : Prop :=
  ∀ s : State, s.port = [] → step s = .next s

/-- Decoding what the encoder presents gives the instruction back, for every well-formed instruction and every
configuration (the layout of operands is the model's choice, log 6). -/
def Obligations.DecodeOfEncode : Prop :=
  ∀ (cfg : Config) (i : Instr), i.wf cfg = true → decode cfg (encode cfg i) = .ok i

/-- A few words written out from the spec's encodings decode to what they stand for (30_encoding.md R60, R63, R74; the
layout of operands is the model's choice, log 6). -/
def Obligations.SampleWordsDecode : Prop :=
  decode Config.standard (.packet 0b00000000001100000000100000000001#32) = .ok (.pktPwm 0 3 2 1)
  ∧ decode Config.standard (.packet 0b01000001100100001100100101100100#32)
      = .ok (.pktCorr 0 0 0 0 25 0 50 0 2 100)
  ∧ decode Config.standard (.command [0x0A, 0x02] []) = .ok (.getState 2)
  ∧ decode Config.standard (.command [0x10, 0x03, 0x01] []) = .ok (.newChain 3 true)
  ∧ decode Config.standard (.command [0x19, 0x01, 0x08, 0x30, 0x00, 0x02] []) = .ok (.sendPacket 0x00300801 2)
  ∧ decode Config.standard (.command [0x11] [⟨7⟩, ⟨8⟩, ⟨9⟩]) = .ok (.setup3 ⟨7⟩ ⟨8⟩ ⟨9⟩)
  ∧ decode Config.standard (.command [0x17] []) = .ok .endUpdate

/-- The state after reset is one a run can be in, and has the values the table of 10_state.md R36 gives (the operands
of the NEW_CHAIN it stands for are the model's choice, log 1). -/
def Obligations.ResetStateIsLegal : Prop :=
  State.reset.wf
  ∧ State.reset.constructed = true ∧ State.reset.updState = .idle ∧ State.reset.setupDone = false
  ∧ State.reset.hasNoe = false ∧ State.reset.trkAlloc = false ∧ State.reset.trkEn = false
  ∧ State.reset.buf = [] ∧ State.reset.trace = []

/-- Every step keeps what every run's states have: the range of the chain length, the width of the count, tracking only
over an allocated ring, a ring of exactly L slots with its head in [0, L] (10_state.md R15, R16, R17, R19). -/
def Obligations.StepKeepsLegalState : Prop :=
  ∀ s t : State, s.wf → step s = .next t → t.wf

/-- From a state a run can be in no step faults: a slot that does not exist is never addressed (20_memory.md R42). -/
def Obligations.StepNeverFaults : Prop :=
  ∀ s : State, s.wf → notFault (step s) = true

/-- Every step keeps the ring memory in its canonical form, from every state whose memory has it (log 12). -/
def Obligations.StepKeepsMemoryCanonical : Prop :=
  ∀ s t : State, Memory.wf s.buf = true → step s = .next t → Memory.wf t.buf = true

/-- From 10_state.md section 2: the chain length is set by NEW_CHAIN and no other operation changes it; no operation
changes the parameters. -/
def Obligations.ChainLengthIsFixed : Prop :=
  ∀ (s t : State) (i : Instr), exec i s = .next t →
    t.cfg = s.cfg ∧ ((∀ n b, i ≠ .newChain n b) → t.chainLen = s.chainLen ∧ t.constructed = s.constructed)

/-- 10_state.md R24: the only transitions of the update cycle are those of BEGIN_UPDATE and END_UPDATE (and the reset
NEW_CHAIN); every other operation, the composite ones too, ends in the state in which it began. -/
def Obligations.UpdateStateTransitions : Prop :=
  ∀ (s t : State) (i : Instr), exec i s = .next t →
    (i = .beginUpdate → s.updState = .idle ∧ t.updState = .updating)
    ∧ (i = .endUpdate → s.updState = .updating ∧ t.updState = .idle)
    ∧ (i ≠ .beginUpdate → i ≠ .endUpdate → (∀ n b, i ≠ .newChain n b) → t.updState = s.updState)

/-- From 20_memory.md section 1: the ring is changed only by ring writes, by the allocation and by NEW_CHAIN: an operation
that sends nothing and is none of these leaves every slot and the head as they are. From 10_state.md section 5 and
42_chain_controller.md sections 3 and 4: it puts no bit on the wire and leaves the chips' shift registers as they are,
and their outputs too, but for END_UPDATE, whose latch of a count above 0 makes them adopt the shift registers. (The
chips as part of the state, the same ones across a SETUP with other pins: the model's choice, log 11.) -/
def Obligations.RingWrittenOnlyBySends : Prop :=
  ∀ (s t : State) (i : Instr), keepsPairing i = true → packetsOf s.chainLen i = [] → s.wf → exec i s = .next t →
    t.head = s.head ∧ t.buf = s.buf ∧ (∀ a, Memory.read t.buf a = Memory.read s.buf a) ∧ t.sh = s.sh
    ∧ (i ≠ .endUpdate → t.out = s.out)
    ∧ (i = .endUpdate → t.out = if 0 < s.sentCount then s.sh else s.out)
    ∧ ∃ es, t.trace = s.trace ++ es ∧ ∀ b, .shift b ∉ es

/-- From 10_state.md R30: the wire trace is an output history. No operation but NEW_CHAIN, and no step that performs
neither a NEW_CHAIN nor a loss of the block's power, takes anything from it or from the record of pin calls; a loss of
the block's power empties both. (The record of pin calls is the model's own: the model's choice, log 15; losses of power
as what a step meets: the model's choice, log 16.) -/
def Obligations.HistoriesOnlyGrow : Prop :=
  (∀ (s t : State) (i : Instr), (∀ n b, i ≠ .newChain n b) → exec i s = .next t →
    s.trace <+: t.trace ∧ s.pinCalls <+: t.pinCalls)
  ∧ (∀ s t : State, (∀ rest, s.port ≠ .blockPowerLoss :: rest) →
    (∀ p rest n b, s.port = .operation p :: rest → decode s.cfg p ≠ .ok (.newChain n b)) → step s = .next t →
    s.trace <+: t.trace ∧ s.pinCalls <+: t.pinCalls)
  ∧ ∀ (s : State) (rest : List Stimulus), s.port = .blockPowerLoss :: rest →
    ∃ t, step s = .next t ∧ t.trace = [] ∧ t.pinCalls = []

/-- From 70_reset_and_hazards.md section 2 (log 16): when the chips lose power nothing of the block changes; when the block
does, every operation but NEW_CHAIN is refused (the codec's too, log 8). -/
def Obligations.LossOfPower : Prop :=
  ∀ (s : State) (rest : List Stimulus),
    (s.port = .chainPowerLoss :: rest → ∃ t, step s = .next t
      ∧ t = { s with sh := t.sh, out := t.out, draws := t.draws, port := rest }
      ∧ t.sh.length = s.sh.length ∧ t.out.length = s.out.length)
    ∧ (s.port = .blockPowerLoss :: rest → ∃ t, step s = .next t
      ∧ t.cfg = s.cfg ∧ t.sh = s.sh ∧ t.out = s.out ∧ t.port = rest
      ∧ ∀ i, (∀ n b, i ≠ .newChain n b) → exec i t = .refused .beforeReset)
end

