-- ==== Sys2Proof/Laws/Codec.lean ====
section
/-! SUPPORT. The codec's shared operations in arithmetic: slices, the words of the two formats, the mode flag and the view it selects. -/

namespace Sys2Proof.Machine

/-- Or of a shifted number and one below it is their sum. -/
theorem shiftLeft_or_eq_add {a b k : Nat} (h : b < 2 ^ k) : (a <<< k) ||| b = a * 2 ^ k + b := by
  rw [← Nat.shiftLeft_add_eq_or_of_lt h, Nat.shiftLeft_eq]

/-- A slice as a number. -/
theorem slice_toNat (p : Packet) (lo w : Nat) : (slice p lo w).toNat = p.toNat / 2 ^ lo % 2 ^ w := by
  simp [slice, Nat.shiftRight_eq_div_pow]

/-- A slice is the value whose number it has. -/
theorem slice_eq {p : Packet} {lo w : Nat} {v : BitVec w} (h : p.toNat / 2 ^ lo % 2 ^ w = v.toNat) : slice p lo w = v :=
  BitVec.eq_of_toNat_eq (by rw [slice_toNat, h])

/-- The PWM word as a number. -/
theorem pwmWord_toNat (u : BitVec 1) (c2 c1 c0 : BitVec 10) : (pwmWord u c2 c1 c0).toNat = u.toNat * 2 ^ 31 + c2.toNat * 2 ^ 20 + c1.toNat * 2 ^ 10 + c0.toNat := by
  simp only [pwmWord, BitVec.toNat_append]
  have := u.isLt; have := c2.isLt; have := c1.isLt; have := c0.isLt; 
  simp only [modePwm]
  rw [shiftLeft_or_eq_add (b := c0.toNat) (by omega), shiftLeft_or_eq_add (b := c1.toNat) (by omega), shiftLeft_or_eq_add (b := c2.toNat) (by omega), shiftLeft_or_eq_add (by decide)]
  simp; omega

/-- The correction word as a number. -/
theorem corrWord_toNat (u t1 t0 p27 : BitVec 1) (c2 : BitVec 7) (p19 : BitVec 3) (c1 : BitVec 7) (p9 : BitVec 1)
      (m : BitVec 2) (c0 : BitVec 7) : (corrWord u t1 t0 p27 c2 p19 c1 p9 m c0).toNat =
   u.toNat * 2 ^ 31 + 2^30 + t1.toNat * 2^29 + t0.toNat * 2 ^ 28 + p27.toNat * 2^27 + c2.toNat * 2^20 + p19.toNat * 2^17 + c1.toNat * 2^10 + p9.toNat * 2^9 + m.toNat * 2^7 + c0.toNat := by
  simp only [corrWord, BitVec.toNat_append]
  have := u.isLt; have := t1.isLt; have := t0.isLt; have := p27.isLt; have := c2.isLt; have := c1.isLt; have := c0.isLt; have := m.isLt; have := p9.isLt; have := p19.isLt
  simp only [modeCorr]
  rw [shiftLeft_or_eq_add (b := c0.toNat) (by omega), shiftLeft_or_eq_add (b := m.toNat) (by omega), shiftLeft_or_eq_add (b := p9.toNat) (by omega), shiftLeft_or_eq_add (b := c1.toNat) (by omega), shiftLeft_or_eq_add (b := p19.toNat) (by omega), shiftLeft_or_eq_add (b := c2.toNat) (by omega), shiftLeft_or_eq_add (b := p27.toNat) (by omega), shiftLeft_or_eq_add (b := t0.toNat) (by omega), shiftLeft_or_eq_add (b := t1.toNat) (by omega), shiftLeft_or_eq_add (by decide)]
  simp; omega

/-- The mode flag is bit 30. -/
theorem modeOf_eq (p : Packet) : modeOf p = BitVec.ofBool (p.getLsbD 30) := by
  apply BitVec.eq_of_getLsbD_eq
  intro i hi
  have : i = 0 := by omega
  subst this
  simp [modeOf, slice, modeBit]

/-- The view that bit 30 selects. -/
theorem selectView_eq (p : Packet) : selectView p = if p.getLsbD 30 then .corr (corrView p) else .pwm (pwmView p) := by
  unfold selectView
  rw [modeOf_eq]
  cases p.getLsbD 30 <;> rfl

/-- Bit 30 by arithmetic. -/
theorem getLsbD_thirty (p : Packet) : p.getLsbD 30 = decide (p.toNat / 2 ^ 30 % 2 = 1) := by
  simp [BitVec.getLsbD, Nat.testBit_eq_decide_div_mod_eq]

end Sys2Proof.Machine
end

