-- ==== Sys2Proof/Laws/Decode.lean ====
section
/-! SUPPORT. The operand ports read back what is put on them. -/

namespace Sys2Proof

/-- The bytes put are the bytes taken. -/
theorem takeBytes_leBytes (k : Nat) (v : Nat) (r : List Byte) : takeBytes k (leBytes k v ++ r) = some (leBytes k v, r) := by
  induction k generalizing v with
  | zero => rfl
  | succ k ih => simp [leBytes, takeBytes, ih]

/-- Bytes stand for the number they were made from, modulo their size. -/
theorem leValue_leBytes (k v : Nat) : leValue (leBytes k v) = v % 256 ^ k := by
  induction k generalizing v with
  | zero => simp [leBytes, leValue, Nat.mod_one]
  | succ k ih =>
    simp only [leBytes, leValue, ih, BitVec.toNat_ofNat]
    rw [show (256:Nat) ^ (k+1) = 256 * 256 ^ k by ring, Nat.mod_mul]

/-- A port of `w` bits read back, more bytes following. -/
theorem getNat_putNat (w v : Nat) (r : List Byte) (h : v < 2 ^ w) : getNat w (putNat w v ++ r) = some (v, r) := by
  unfold getNat putNat
  rw [takeBytes_leBytes]
  simp only [leValue_leBytes]
  have h2 : (2:Nat) ^ w ≤ 256 ^ portBytes w := by
    rw [show (256:Nat) = 2 ^ 8 by norm_num, ← pow_mul]
    exact Nat.pow_le_pow_right (by norm_num) (by unfold portBytes; omega)
  rw [Nat.mod_eq_of_lt (lt_of_lt_of_le h h2), Nat.mod_eq_of_lt h]

/-- A port of `w` bits read back, nothing following. -/
theorem getNat_putNat' (w v : Nat) (h : v < 2 ^ w) : getNat w (putNat w v) = some (v, []) := by
  simpa using getNat_putNat w v [] h

/-- A packet port read back. -/
theorem getPacket_put (p : Packet) (r : List Byte) : getPacket (putPacket p ++ r) = some (p, r) := by
  unfold getPacket putPacket
  rw [getNat_putNat 32 _ r p.isLt]; simp

/-- A packet port read back, nothing following. -/
theorem getPacket_put' (p : Packet) : getPacket (putPacket p) = some (p, []) := by
  simpa using getPacket_put p []

/-- A Bool port read back. -/
theorem getBool_put (b : Bool) : getBool (putBool b) = some (b, []) := by
  cases b <;> decide

/-- Packets read back. -/
theorem getPackets_put (ps : List Packet) : getPackets ps.length (ps.flatMap putPacket) = some (ps, []) := by
  induction ps with
  | nil => rfl
  | cons p ps ih => simp [getPackets, getPacket_put, ih]

/-- A sequence port read back. -/
theorem getSeq_put (cfg : Config) (ps : List Packet) (h : ps.length < 2 ^ cfg.idxW.bits) : getSeq cfg (putSeq cfg ps) = some (ps, []) := by
  unfold getSeq putSeq
  rw [getNat_putNat _ _ _ h]; simp [getPackets_put]

/-- A command decodes by its code. -/
theorem decode_command (cfg : Config) (c : Nat) (h : c < 32) (bs : List Byte) :
    decode cfg (command c bs) = decodeOp cfg c bs [] := by
  unfold command decode
  simp only [BitVec.toNat_ofNat]
  rw [show c % 2 ^ 8 % 32 = c by omega]

/-- A command of pins decodes by its code. -/
theorem decode_pinCommand (cfg : Config) (c : Nat) (h : c < 32) (pins : List PinId) :
    decode cfg (pinCommand c pins) = decodeOp cfg c [] pins := by
  unfold pinCommand decode
  simp only [BitVec.toNat_ofNat]
  rw [show c % 2 ^ 8 % 32 = c by omega]

/-- `IN_W` is at least 10 in every configuration (00_scope.md R5, 40_packet_codec.md R83). -/
theorem Config.inW_ge (cfg : Config) : 10 ≤ cfg.inW := Nat.le_add_right 10 cfg.inAbove

end Sys2Proof
end

