-- ==== Sys2Proof/Laws/Memory.lean ====
section
/-! SUPPORT. The laws of the ring memory: read after write, which indices exist, and that every operation keeps the canonical form. -/

namespace Sys2Proof.Machine

/-- A write keeps the indices. -/
theorem Memory.write_keys {m m' : Memory} {a : Nat} {v : Packet} (h : Memory.write m a v = some m') :
    m'.map Prod.fst = m.map Prod.fst := by
  induction m generalizing m' with
  | nil => simp [Memory.write] at h
  | cons c rest ih =>
    obtain ⟨b, w⟩ := c
    simp only [Memory.write] at h
    split at h
    · cases h; simp
    · split at h
      · cases h
      · rename_i rest' hr
        cases h
        simp [ih hr]

/-- A write succeeds exactly at an index that exists. -/
theorem Memory.write_exists {m : Memory} {a : Nat} (v : Packet) (h : a ∈ m.map Prod.fst) :
    ∃ m', Memory.write m a v = some m' := by
  induction m with
  | nil => simp at h
  | cons c rest ih =>
    obtain ⟨b, w⟩ := c
    by_cases hb : b = a
    · exact ⟨(b, v) :: rest, by simp [Memory.write, hb]⟩
    · obtain ⟨m', hm'⟩ := ih (by simpa [Ne.symm hb] using h)
      exact ⟨(b, w) :: m', by simp [Memory.write, hb, hm']⟩

/-- A read succeeds exactly at an index that exists. -/
theorem Memory.read_exists {m : Memory} {a : Nat} (h : a ∈ m.map Prod.fst) : ∃ v, Memory.read m a = some v := by
  induction m with
  | nil => simp at h
  | cons c rest ih =>
    obtain ⟨b, w⟩ := c
    by_cases hb : b = a
    · exact ⟨w, by simp [Memory.read, hb]⟩
    · obtain ⟨v, hv⟩ := ih (by simpa [Ne.symm hb] using h)
      exact ⟨v, by simp [Memory.read, hb, hv]⟩

/-- A read after a write at the same index gives the value written. -/
theorem Memory.read_write_same {m m' : Memory} {a : Nat} {v : Packet} (h : Memory.write m a v = some m') :
    Memory.read m' a = some v := by
  induction m generalizing m' with
  | nil => simp [Memory.write] at h
  | cons c rest ih =>
    obtain ⟨b, w⟩ := c
    simp only [Memory.write] at h
    split at h
    · rename_i hb; cases h; simp [Memory.read, hb]
    · rename_i hb
      split at h
      · cases h
      · rename_i rest' hr
        cases h
        simp [Memory.read, hb, ih hr]

/-- A write leaves every other index alone. -/
theorem Memory.read_write_other {m m' : Memory} {a b : Nat} {v : Packet} (h : Memory.write m a v = some m')
    (hab : b ≠ a) : Memory.read m' b = Memory.read m b := by
  induction m generalizing m' with
  | nil => simp [Memory.write] at h
  | cons c rest ih =>
    obtain ⟨x, w⟩ := c
    simp only [Memory.write] at h
    split at h
    · rename_i hx; cases h; simp [Memory.read, hx, hab.symm]
    · split at h
      · cases h
      · rename_i rest' hr
        cases h
        simp [Memory.read, ih hr]

/-- The canonical form says that the indices strictly rise. -/
theorem Memory.wf_iff_keys (m : Memory) : Memory.wf m = true ↔ (m.map Prod.fst).Pairwise (· < ·) := by
  induction m with
  | nil => simp [Memory.wf]
  | cons c rest ih => simp [Memory.wf, ih, List.pairwise_cons]

/-- The empty memory has the canonical form. -/
theorem Memory.wf_nil : Memory.wf [] = true := rfl

/-- A write keeps the canonical form. -/
theorem Memory.wf_write {m m' : Memory} {a : Nat} {v : Packet} (h : Memory.write m a v = some m')
    (hw : Memory.wf m = true) : Memory.wf m' = true := by
  rw [Memory.wf_iff_keys] at hw ⊢
  rwa [Memory.write_keys h]

/-- The indices of an allocation. -/
@[simp] theorem Memory.allocate_keys (n : Nat) (f : Nat → Packet) :
    (Memory.allocate n f).map Prod.fst = List.range n := by
  simp [Memory.allocate, Function.comp_def]

/-- A memory whose slots are `0 .. n-1` has the canonical form. -/
theorem Memory.wf_of_keys_range {m : Memory} {n : Nat} (h : m.map Prod.fst = List.range n) : Memory.wf m = true := by
  rw [Memory.wf_iff_keys, h]
  exact List.pairwise_lt_range

/-- An allocation has the canonical form. -/
theorem Memory.wf_allocate (n : Nat) (f : Nat → Packet) : Memory.wf (Memory.allocate n f) = true :=
  Memory.wf_of_keys_range (Memory.allocate_keys n f)

/-- What an allocation holds. -/
theorem Memory.read_allocate {n a : Nat} (f : Nat → Packet) (h : a < n) :
    Memory.read (Memory.allocate n f) a = some (f a) := by
  have key : ∀ l : List Nat, a ∈ l → Memory.read (l.map fun i => (i, f i)) a = some (f a) := by
    intro l
    induction l with
    | nil => simp
    | cons x xs ih =>
      intro hx
      by_cases hxa : x = a
      · simp [Memory.read, hxa]
      · simpa [Memory.read, hxa] using ih (by simpa [Ne.symm hxa] using hx)
  exact key _ (List.mem_range.2 h)

end Sys2Proof.Machine
end

