-- ==== Sys2Proof/Laws/State.lean ====
section
/-! SUPPORT. One lemma per field per update of State: the field is what the update sets, or what it was. -/

namespace Sys2Proof.Machine

variable (s : State)


@[simp] theorem respond_cfg (r : Response) : (s.respond r).cfg = s.cfg := rfl
@[simp] theorem respond_constructed (r : Response) : (s.respond r).constructed = s.constructed := rfl
@[simp] theorem respond_chainLen (r : Response) : (s.respond r).chainLen = s.chainLen := rfl
@[simp] theorem respond_autoUpdate (r : Response) : (s.respond r).autoUpdate = s.autoUpdate := rfl
@[simp] theorem respond_updState (r : Response) : (s.respond r).updState = s.updState := rfl
@[simp] theorem respond_sentCount (r : Response) : (s.respond r).sentCount = s.sentCount := rfl
@[simp] theorem respond_setupDone (r : Response) : (s.respond r).setupDone = s.setupDone := rfl
@[simp] theorem respond_hasNoe (r : Response) : (s.respond r).hasNoe = s.hasNoe := rfl
@[simp] theorem respond_pinData (r : Response) : (s.respond r).pinData = s.pinData := rfl
@[simp] theorem respond_pinClock (r : Response) : (s.respond r).pinClock = s.pinClock := rfl
@[simp] theorem respond_pinLatch (r : Response) : (s.respond r).pinLatch = s.pinLatch := rfl
@[simp] theorem respond_pinNoe (r : Response) : (s.respond r).pinNoe = s.pinNoe := rfl
@[simp] theorem respond_trkAlloc (r : Response) : (s.respond r).trkAlloc = s.trkAlloc := rfl
@[simp] theorem respond_trkEn (r : Response) : (s.respond r).trkEn = s.trkEn := rfl
@[simp] theorem respond_head (r : Response) : (s.respond r).head = s.head := rfl
@[simp] theorem respond_buf (r : Response) : (s.respond r).buf = s.buf := rfl
@[simp] theorem respond_response (r : Response) : (s.respond r).response = r := rfl
@[simp] theorem respond_trace (r : Response) : (s.respond r).trace = s.trace := rfl
@[simp] theorem respond_pinCalls (r : Response) : (s.respond r).pinCalls = s.pinCalls := rfl
@[simp] theorem respond_sh (r : Response) : (s.respond r).sh = s.sh := rfl
@[simp] theorem respond_out (r : Response) : (s.respond r).out = s.out := rfl
@[simp] theorem respond_port (r : Response) : (s.respond r).port = s.port := rfl
@[simp] theorem respond_draws (r : Response) : (s.respond r).draws = s.draws := rfl

@[simp] theorem pushEvents_cfg (es : List WireEvent) : (s.pushEvents es).cfg = s.cfg := rfl
@[simp] theorem pushEvents_constructed (es : List WireEvent) : (s.pushEvents es).constructed = s.constructed := rfl
@[simp] theorem pushEvents_chainLen (es : List WireEvent) : (s.pushEvents es).chainLen = s.chainLen := rfl
@[simp] theorem pushEvents_autoUpdate (es : List WireEvent) : (s.pushEvents es).autoUpdate = s.autoUpdate := rfl
@[simp] theorem pushEvents_updState (es : List WireEvent) : (s.pushEvents es).updState = s.updState := rfl
@[simp] theorem pushEvents_sentCount (es : List WireEvent) : (s.pushEvents es).sentCount = s.sentCount := rfl
@[simp] theorem pushEvents_setupDone (es : List WireEvent) : (s.pushEvents es).setupDone = s.setupDone := rfl
@[simp] theorem pushEvents_hasNoe (es : List WireEvent) : (s.pushEvents es).hasNoe = s.hasNoe := rfl
@[simp] theorem pushEvents_pinData (es : List WireEvent) : (s.pushEvents es).pinData = s.pinData := rfl
@[simp] theorem pushEvents_pinClock (es : List WireEvent) : (s.pushEvents es).pinClock = s.pinClock := rfl
@[simp] theorem pushEvents_pinLatch (es : List WireEvent) : (s.pushEvents es).pinLatch = s.pinLatch := rfl
@[simp] theorem pushEvents_pinNoe (es : List WireEvent) : (s.pushEvents es).pinNoe = s.pinNoe := rfl
@[simp] theorem pushEvents_trkAlloc (es : List WireEvent) : (s.pushEvents es).trkAlloc = s.trkAlloc := rfl
@[simp] theorem pushEvents_trkEn (es : List WireEvent) : (s.pushEvents es).trkEn = s.trkEn := rfl
@[simp] theorem pushEvents_head (es : List WireEvent) : (s.pushEvents es).head = s.head := rfl
@[simp] theorem pushEvents_buf (es : List WireEvent) : (s.pushEvents es).buf = s.buf := rfl
@[simp] theorem pushEvents_response (es : List WireEvent) : (s.pushEvents es).response = s.response := rfl
@[simp] theorem pushEvents_trace (es : List WireEvent) : (s.pushEvents es).trace = s.trace ++ es := rfl
@[simp] theorem pushEvents_pinCalls (es : List WireEvent) : (s.pushEvents es).pinCalls = s.pinCalls := rfl
@[simp] theorem pushEvents_sh (es : List WireEvent) : (s.pushEvents es).sh = s.sh := rfl
@[simp] theorem pushEvents_out (es : List WireEvent) : (s.pushEvents es).out = s.out := rfl
@[simp] theorem pushEvents_port (es : List WireEvent) : (s.pushEvents es).port = s.port := rfl
@[simp] theorem pushEvents_draws (es : List WireEvent) : (s.pushEvents es).draws = s.draws := rfl

@[simp] theorem pushCalls_cfg (cs : List PinCall) : (s.pushCalls cs).cfg = s.cfg := rfl
@[simp] theorem pushCalls_constructed (cs : List PinCall) : (s.pushCalls cs).constructed = s.constructed := rfl
@[simp] theorem pushCalls_chainLen (cs : List PinCall) : (s.pushCalls cs).chainLen = s.chainLen := rfl
@[simp] theorem pushCalls_autoUpdate (cs : List PinCall) : (s.pushCalls cs).autoUpdate = s.autoUpdate := rfl
@[simp] theorem pushCalls_updState (cs : List PinCall) : (s.pushCalls cs).updState = s.updState := rfl
@[simp] theorem pushCalls_sentCount (cs : List PinCall) : (s.pushCalls cs).sentCount = s.sentCount := rfl
@[simp] theorem pushCalls_setupDone (cs : List PinCall) : (s.pushCalls cs).setupDone = s.setupDone := rfl
@[simp] theorem pushCalls_hasNoe (cs : List PinCall) : (s.pushCalls cs).hasNoe = s.hasNoe := rfl
@[simp] theorem pushCalls_pinData (cs : List PinCall) : (s.pushCalls cs).pinData = s.pinData := rfl
@[simp] theorem pushCalls_pinClock (cs : List PinCall) : (s.pushCalls cs).pinClock = s.pinClock := rfl
@[simp] theorem pushCalls_pinLatch (cs : List PinCall) : (s.pushCalls cs).pinLatch = s.pinLatch := rfl
@[simp] theorem pushCalls_pinNoe (cs : List PinCall) : (s.pushCalls cs).pinNoe = s.pinNoe := rfl
@[simp] theorem pushCalls_trkAlloc (cs : List PinCall) : (s.pushCalls cs).trkAlloc = s.trkAlloc := rfl
@[simp] theorem pushCalls_trkEn (cs : List PinCall) : (s.pushCalls cs).trkEn = s.trkEn := rfl
@[simp] theorem pushCalls_head (cs : List PinCall) : (s.pushCalls cs).head = s.head := rfl
@[simp] theorem pushCalls_buf (cs : List PinCall) : (s.pushCalls cs).buf = s.buf := rfl
@[simp] theorem pushCalls_response (cs : List PinCall) : (s.pushCalls cs).response = s.response := rfl
@[simp] theorem pushCalls_trace (cs : List PinCall) : (s.pushCalls cs).trace = s.trace := rfl
@[simp] theorem pushCalls_pinCalls (cs : List PinCall) : (s.pushCalls cs).pinCalls = s.pinCalls ++ cs := rfl
@[simp] theorem pushCalls_sh (cs : List PinCall) : (s.pushCalls cs).sh = s.sh := rfl
@[simp] theorem pushCalls_out (cs : List PinCall) : (s.pushCalls cs).out = s.out := rfl
@[simp] theorem pushCalls_port (cs : List PinCall) : (s.pushCalls cs).port = s.port := rfl
@[simp] theorem pushCalls_draws (cs : List PinCall) : (s.pushCalls cs).draws = s.draws := rfl

@[simp] theorem setShift_cfg (x : List Packet) : (s.setShift x).cfg = s.cfg := rfl
@[simp] theorem setShift_constructed (x : List Packet) : (s.setShift x).constructed = s.constructed := rfl
@[simp] theorem setShift_chainLen (x : List Packet) : (s.setShift x).chainLen = s.chainLen := rfl
@[simp] theorem setShift_autoUpdate (x : List Packet) : (s.setShift x).autoUpdate = s.autoUpdate := rfl
@[simp] theorem setShift_updState (x : List Packet) : (s.setShift x).updState = s.updState := rfl
@[simp] theorem setShift_sentCount (x : List Packet) : (s.setShift x).sentCount = s.sentCount := rfl
@[simp] theorem setShift_setupDone (x : List Packet) : (s.setShift x).setupDone = s.setupDone := rfl
@[simp] theorem setShift_hasNoe (x : List Packet) : (s.setShift x).hasNoe = s.hasNoe := rfl
@[simp] theorem setShift_pinData (x : List Packet) : (s.setShift x).pinData = s.pinData := rfl
@[simp] theorem setShift_pinClock (x : List Packet) : (s.setShift x).pinClock = s.pinClock := rfl
@[simp] theorem setShift_pinLatch (x : List Packet) : (s.setShift x).pinLatch = s.pinLatch := rfl
@[simp] theorem setShift_pinNoe (x : List Packet) : (s.setShift x).pinNoe = s.pinNoe := rfl
@[simp] theorem setShift_trkAlloc (x : List Packet) : (s.setShift x).trkAlloc = s.trkAlloc := rfl
@[simp] theorem setShift_trkEn (x : List Packet) : (s.setShift x).trkEn = s.trkEn := rfl
@[simp] theorem setShift_head (x : List Packet) : (s.setShift x).head = s.head := rfl
@[simp] theorem setShift_buf (x : List Packet) : (s.setShift x).buf = s.buf := rfl
@[simp] theorem setShift_response (x : List Packet) : (s.setShift x).response = s.response := rfl
@[simp] theorem setShift_trace (x : List Packet) : (s.setShift x).trace = s.trace := rfl
@[simp] theorem setShift_pinCalls (x : List Packet) : (s.setShift x).pinCalls = s.pinCalls := rfl
@[simp] theorem setShift_sh (x : List Packet) : (s.setShift x).sh = x := rfl
@[simp] theorem setShift_out (x : List Packet) : (s.setShift x).out = s.out := rfl
@[simp] theorem setShift_port (x : List Packet) : (s.setShift x).port = s.port := rfl
@[simp] theorem setShift_draws (x : List Packet) : (s.setShift x).draws = s.draws := rfl

@[simp] theorem setOut_cfg (x : List Packet) : (s.setOut x).cfg = s.cfg := rfl
@[simp] theorem setOut_constructed (x : List Packet) : (s.setOut x).constructed = s.constructed := rfl
@[simp] theorem setOut_chainLen (x : List Packet) : (s.setOut x).chainLen = s.chainLen := rfl
@[simp] theorem setOut_autoUpdate (x : List Packet) : (s.setOut x).autoUpdate = s.autoUpdate := rfl
@[simp] theorem setOut_updState (x : List Packet) : (s.setOut x).updState = s.updState := rfl
@[simp] theorem setOut_sentCount (x : List Packet) : (s.setOut x).sentCount = s.sentCount := rfl
@[simp] theorem setOut_setupDone (x : List Packet) : (s.setOut x).setupDone = s.setupDone := rfl
@[simp] theorem setOut_hasNoe (x : List Packet) : (s.setOut x).hasNoe = s.hasNoe := rfl
@[simp] theorem setOut_pinData (x : List Packet) : (s.setOut x).pinData = s.pinData := rfl
@[simp] theorem setOut_pinClock (x : List Packet) : (s.setOut x).pinClock = s.pinClock := rfl
@[simp] theorem setOut_pinLatch (x : List Packet) : (s.setOut x).pinLatch = s.pinLatch := rfl
@[simp] theorem setOut_pinNoe (x : List Packet) : (s.setOut x).pinNoe = s.pinNoe := rfl
@[simp] theorem setOut_trkAlloc (x : List Packet) : (s.setOut x).trkAlloc = s.trkAlloc := rfl
@[simp] theorem setOut_trkEn (x : List Packet) : (s.setOut x).trkEn = s.trkEn := rfl
@[simp] theorem setOut_head (x : List Packet) : (s.setOut x).head = s.head := rfl
@[simp] theorem setOut_buf (x : List Packet) : (s.setOut x).buf = s.buf := rfl
@[simp] theorem setOut_response (x : List Packet) : (s.setOut x).response = s.response := rfl
@[simp] theorem setOut_trace (x : List Packet) : (s.setOut x).trace = s.trace := rfl
@[simp] theorem setOut_pinCalls (x : List Packet) : (s.setOut x).pinCalls = s.pinCalls := rfl
@[simp] theorem setOut_sh (x : List Packet) : (s.setOut x).sh = s.sh := rfl
@[simp] theorem setOut_out (x : List Packet) : (s.setOut x).out = x := rfl
@[simp] theorem setOut_port (x : List Packet) : (s.setOut x).port = s.port := rfl
@[simp] theorem setOut_draws (x : List Packet) : (s.setOut x).draws = s.draws := rfl

@[simp] theorem setUpd_cfg (u : UpdState) : (s.setUpd u).cfg = s.cfg := rfl
@[simp] theorem setUpd_constructed (u : UpdState) : (s.setUpd u).constructed = s.constructed := rfl
@[simp] theorem setUpd_chainLen (u : UpdState) : (s.setUpd u).chainLen = s.chainLen := rfl
@[simp] theorem setUpd_autoUpdate (u : UpdState) : (s.setUpd u).autoUpdate = s.autoUpdate := rfl
@[simp] theorem setUpd_updState (u : UpdState) : (s.setUpd u).updState = u := rfl
@[simp] theorem setUpd_sentCount (u : UpdState) : (s.setUpd u).sentCount = s.sentCount := rfl
@[simp] theorem setUpd_setupDone (u : UpdState) : (s.setUpd u).setupDone = s.setupDone := rfl
@[simp] theorem setUpd_hasNoe (u : UpdState) : (s.setUpd u).hasNoe = s.hasNoe := rfl
@[simp] theorem setUpd_pinData (u : UpdState) : (s.setUpd u).pinData = s.pinData := rfl
@[simp] theorem setUpd_pinClock (u : UpdState) : (s.setUpd u).pinClock = s.pinClock := rfl
@[simp] theorem setUpd_pinLatch (u : UpdState) : (s.setUpd u).pinLatch = s.pinLatch := rfl
@[simp] theorem setUpd_pinNoe (u : UpdState) : (s.setUpd u).pinNoe = s.pinNoe := rfl
@[simp] theorem setUpd_trkAlloc (u : UpdState) : (s.setUpd u).trkAlloc = s.trkAlloc := rfl
@[simp] theorem setUpd_trkEn (u : UpdState) : (s.setUpd u).trkEn = s.trkEn := rfl
@[simp] theorem setUpd_head (u : UpdState) : (s.setUpd u).head = s.head := rfl
@[simp] theorem setUpd_buf (u : UpdState) : (s.setUpd u).buf = s.buf := rfl
@[simp] theorem setUpd_response (u : UpdState) : (s.setUpd u).response = s.response := rfl
@[simp] theorem setUpd_trace (u : UpdState) : (s.setUpd u).trace = s.trace := rfl
@[simp] theorem setUpd_pinCalls (u : UpdState) : (s.setUpd u).pinCalls = s.pinCalls := rfl
@[simp] theorem setUpd_sh (u : UpdState) : (s.setUpd u).sh = s.sh := rfl
@[simp] theorem setUpd_out (u : UpdState) : (s.setUpd u).out = s.out := rfl
@[simp] theorem setUpd_port (u : UpdState) : (s.setUpd u).port = s.port := rfl
@[simp] theorem setUpd_draws (u : UpdState) : (s.setUpd u).draws = s.draws := rfl

@[simp] theorem setCount_cfg (n : Nat) : (s.setCount n).cfg = s.cfg := rfl
@[simp] theorem setCount_constructed (n : Nat) : (s.setCount n).constructed = s.constructed := rfl
@[simp] theorem setCount_chainLen (n : Nat) : (s.setCount n).chainLen = s.chainLen := rfl
@[simp] theorem setCount_autoUpdate (n : Nat) : (s.setCount n).autoUpdate = s.autoUpdate := rfl
@[simp] theorem setCount_updState (n : Nat) : (s.setCount n).updState = s.updState := rfl
@[simp] theorem setCount_sentCount (n : Nat) : (s.setCount n).sentCount = n := rfl
@[simp] theorem setCount_setupDone (n : Nat) : (s.setCount n).setupDone = s.setupDone := rfl
@[simp] theorem setCount_hasNoe (n : Nat) : (s.setCount n).hasNoe = s.hasNoe := rfl
@[simp] theorem setCount_pinData (n : Nat) : (s.setCount n).pinData = s.pinData := rfl
@[simp] theorem setCount_pinClock (n : Nat) : (s.setCount n).pinClock = s.pinClock := rfl
@[simp] theorem setCount_pinLatch (n : Nat) : (s.setCount n).pinLatch = s.pinLatch := rfl
@[simp] theorem setCount_pinNoe (n : Nat) : (s.setCount n).pinNoe = s.pinNoe := rfl
@[simp] theorem setCount_trkAlloc (n : Nat) : (s.setCount n).trkAlloc = s.trkAlloc := rfl
@[simp] theorem setCount_trkEn (n : Nat) : (s.setCount n).trkEn = s.trkEn := rfl
@[simp] theorem setCount_head (n : Nat) : (s.setCount n).head = s.head := rfl
@[simp] theorem setCount_buf (n : Nat) : (s.setCount n).buf = s.buf := rfl
@[simp] theorem setCount_response (n : Nat) : (s.setCount n).response = s.response := rfl
@[simp] theorem setCount_trace (n : Nat) : (s.setCount n).trace = s.trace := rfl
@[simp] theorem setCount_pinCalls (n : Nat) : (s.setCount n).pinCalls = s.pinCalls := rfl
@[simp] theorem setCount_sh (n : Nat) : (s.setCount n).sh = s.sh := rfl
@[simp] theorem setCount_out (n : Nat) : (s.setCount n).out = s.out := rfl
@[simp] theorem setCount_port (n : Nat) : (s.setCount n).port = s.port := rfl
@[simp] theorem setCount_draws (n : Nat) : (s.setCount n).draws = s.draws := rfl

@[simp] theorem setAuto_cfg (b : Bool) : (s.setAuto b).cfg = s.cfg := rfl
@[simp] theorem setAuto_constructed (b : Bool) : (s.setAuto b).constructed = s.constructed := rfl
@[simp] theorem setAuto_chainLen (b : Bool) : (s.setAuto b).chainLen = s.chainLen := rfl
@[simp] theorem setAuto_autoUpdate (b : Bool) : (s.setAuto b).autoUpdate = b := rfl
@[simp] theorem setAuto_updState (b : Bool) : (s.setAuto b).updState = s.updState := rfl
@[simp] theorem setAuto_sentCount (b : Bool) : (s.setAuto b).sentCount = s.sentCount := rfl
@[simp] theorem setAuto_setupDone (b : Bool) : (s.setAuto b).setupDone = s.setupDone := rfl
@[simp] theorem setAuto_hasNoe (b : Bool) : (s.setAuto b).hasNoe = s.hasNoe := rfl
@[simp] theorem setAuto_pinData (b : Bool) : (s.setAuto b).pinData = s.pinData := rfl
@[simp] theorem setAuto_pinClock (b : Bool) : (s.setAuto b).pinClock = s.pinClock := rfl
@[simp] theorem setAuto_pinLatch (b : Bool) : (s.setAuto b).pinLatch = s.pinLatch := rfl
@[simp] theorem setAuto_pinNoe (b : Bool) : (s.setAuto b).pinNoe = s.pinNoe := rfl
@[simp] theorem setAuto_trkAlloc (b : Bool) : (s.setAuto b).trkAlloc = s.trkAlloc := rfl
@[simp] theorem setAuto_trkEn (b : Bool) : (s.setAuto b).trkEn = s.trkEn := rfl
@[simp] theorem setAuto_head (b : Bool) : (s.setAuto b).head = s.head := rfl
@[simp] theorem setAuto_buf (b : Bool) : (s.setAuto b).buf = s.buf := rfl
@[simp] theorem setAuto_response (b : Bool) : (s.setAuto b).response = s.response := rfl
@[simp] theorem setAuto_trace (b : Bool) : (s.setAuto b).trace = s.trace := rfl
@[simp] theorem setAuto_pinCalls (b : Bool) : (s.setAuto b).pinCalls = s.pinCalls := rfl
@[simp] theorem setAuto_sh (b : Bool) : (s.setAuto b).sh = s.sh := rfl
@[simp] theorem setAuto_out (b : Bool) : (s.setAuto b).out = s.out := rfl
@[simp] theorem setAuto_port (b : Bool) : (s.setAuto b).port = s.port := rfl
@[simp] theorem setAuto_draws (b : Bool) : (s.setAuto b).draws = s.draws := rfl

@[simp] theorem setRing_cfg (h : Nat) (m : Memory) : (s.setRing h m).cfg = s.cfg := rfl
@[simp] theorem setRing_constructed (h : Nat) (m : Memory) : (s.setRing h m).constructed = s.constructed := rfl
@[simp] theorem setRing_chainLen (h : Nat) (m : Memory) : (s.setRing h m).chainLen = s.chainLen := rfl
@[simp] theorem setRing_autoUpdate (h : Nat) (m : Memory) : (s.setRing h m).autoUpdate = s.autoUpdate := rfl
@[simp] theorem setRing_updState (h : Nat) (m : Memory) : (s.setRing h m).updState = s.updState := rfl
@[simp] theorem setRing_sentCount (h : Nat) (m : Memory) : (s.setRing h m).sentCount = s.sentCount := rfl
@[simp] theorem setRing_setupDone (h : Nat) (m : Memory) : (s.setRing h m).setupDone = s.setupDone := rfl
@[simp] theorem setRing_hasNoe (h : Nat) (m : Memory) : (s.setRing h m).hasNoe = s.hasNoe := rfl
@[simp] theorem setRing_pinData (h : Nat) (m : Memory) : (s.setRing h m).pinData = s.pinData := rfl
@[simp] theorem setRing_pinClock (h : Nat) (m : Memory) : (s.setRing h m).pinClock = s.pinClock := rfl
@[simp] theorem setRing_pinLatch (h : Nat) (m : Memory) : (s.setRing h m).pinLatch = s.pinLatch := rfl
@[simp] theorem setRing_pinNoe (h : Nat) (m : Memory) : (s.setRing h m).pinNoe = s.pinNoe := rfl
@[simp] theorem setRing_trkAlloc (h : Nat) (m : Memory) : (s.setRing h m).trkAlloc = s.trkAlloc := rfl
@[simp] theorem setRing_trkEn (h : Nat) (m : Memory) : (s.setRing h m).trkEn = s.trkEn := rfl
@[simp] theorem setRing_head (h : Nat) (m : Memory) : (s.setRing h m).head = h := rfl
@[simp] theorem setRing_buf (h : Nat) (m : Memory) : (s.setRing h m).buf = m := rfl
@[simp] theorem setRing_response (h : Nat) (m : Memory) : (s.setRing h m).response = s.response := rfl
@[simp] theorem setRing_trace (h : Nat) (m : Memory) : (s.setRing h m).trace = s.trace := rfl
@[simp] theorem setRing_pinCalls (h : Nat) (m : Memory) : (s.setRing h m).pinCalls = s.pinCalls := rfl
@[simp] theorem setRing_sh (h : Nat) (m : Memory) : (s.setRing h m).sh = s.sh := rfl
@[simp] theorem setRing_out (h : Nat) (m : Memory) : (s.setRing h m).out = s.out := rfl
@[simp] theorem setRing_port (h : Nat) (m : Memory) : (s.setRing h m).port = s.port := rfl
@[simp] theorem setRing_draws (h : Nat) (m : Memory) : (s.setRing h m).draws = s.draws := rfl

@[simp] theorem setTrk_cfg (a e : Bool) : (s.setTrk a e).cfg = s.cfg := rfl
@[simp] theorem setTrk_constructed (a e : Bool) : (s.setTrk a e).constructed = s.constructed := rfl
@[simp] theorem setTrk_chainLen (a e : Bool) : (s.setTrk a e).chainLen = s.chainLen := rfl
@[simp] theorem setTrk_autoUpdate (a e : Bool) : (s.setTrk a e).autoUpdate = s.autoUpdate := rfl
@[simp] theorem setTrk_updState (a e : Bool) : (s.setTrk a e).updState = s.updState := rfl
@[simp] theorem setTrk_sentCount (a e : Bool) : (s.setTrk a e).sentCount = s.sentCount := rfl
@[simp] theorem setTrk_setupDone (a e : Bool) : (s.setTrk a e).setupDone = s.setupDone := rfl
@[simp] theorem setTrk_hasNoe (a e : Bool) : (s.setTrk a e).hasNoe = s.hasNoe := rfl
@[simp] theorem setTrk_pinData (a e : Bool) : (s.setTrk a e).pinData = s.pinData := rfl
@[simp] theorem setTrk_pinClock (a e : Bool) : (s.setTrk a e).pinClock = s.pinClock := rfl
@[simp] theorem setTrk_pinLatch (a e : Bool) : (s.setTrk a e).pinLatch = s.pinLatch := rfl
@[simp] theorem setTrk_pinNoe (a e : Bool) : (s.setTrk a e).pinNoe = s.pinNoe := rfl
@[simp] theorem setTrk_trkAlloc (a e : Bool) : (s.setTrk a e).trkAlloc = a := rfl
@[simp] theorem setTrk_trkEn (a e : Bool) : (s.setTrk a e).trkEn = e := rfl
@[simp] theorem setTrk_head (a e : Bool) : (s.setTrk a e).head = s.head := rfl
@[simp] theorem setTrk_buf (a e : Bool) : (s.setTrk a e).buf = s.buf := rfl
@[simp] theorem setTrk_response (a e : Bool) : (s.setTrk a e).response = s.response := rfl
@[simp] theorem setTrk_trace (a e : Bool) : (s.setTrk a e).trace = s.trace := rfl
@[simp] theorem setTrk_pinCalls (a e : Bool) : (s.setTrk a e).pinCalls = s.pinCalls := rfl
@[simp] theorem setTrk_sh (a e : Bool) : (s.setTrk a e).sh = s.sh := rfl
@[simp] theorem setTrk_out (a e : Bool) : (s.setTrk a e).out = s.out := rfl
@[simp] theorem setTrk_port (a e : Bool) : (s.setTrk a e).port = s.port := rfl
@[simp] theorem setTrk_draws (a e : Bool) : (s.setTrk a e).draws = s.draws := rfl

@[simp] theorem setPins_cfg (d c l : PinId) (e : Bool) : (s.setPins d c l e).cfg = s.cfg := rfl
@[simp] theorem setPins_constructed (d c l : PinId) (e : Bool) : (s.setPins d c l e).constructed = s.constructed := rfl
@[simp] theorem setPins_chainLen (d c l : PinId) (e : Bool) : (s.setPins d c l e).chainLen = s.chainLen := rfl
@[simp] theorem setPins_autoUpdate (d c l : PinId) (e : Bool) : (s.setPins d c l e).autoUpdate = s.autoUpdate := rfl
@[simp] theorem setPins_updState (d c l : PinId) (e : Bool) : (s.setPins d c l e).updState = s.updState := rfl
@[simp] theorem setPins_sentCount (d c l : PinId) (e : Bool) : (s.setPins d c l e).sentCount = s.sentCount := rfl
@[simp] theorem setPins_setupDone (d c l : PinId) (e : Bool) : (s.setPins d c l e).setupDone = true := rfl
@[simp] theorem setPins_hasNoe (d c l : PinId) (e : Bool) : (s.setPins d c l e).hasNoe = e := rfl
@[simp] theorem setPins_pinData (d c l : PinId) (e : Bool) : (s.setPins d c l e).pinData = d := rfl
@[simp] theorem setPins_pinClock (d c l : PinId) (e : Bool) : (s.setPins d c l e).pinClock = c := rfl
@[simp] theorem setPins_pinLatch (d c l : PinId) (e : Bool) : (s.setPins d c l e).pinLatch = l := rfl
@[simp] theorem setPins_pinNoe (d c l : PinId) (e : Bool) : (s.setPins d c l e).pinNoe = s.pinNoe := rfl
@[simp] theorem setPins_trkAlloc (d c l : PinId) (e : Bool) : (s.setPins d c l e).trkAlloc = s.trkAlloc := rfl
@[simp] theorem setPins_trkEn (d c l : PinId) (e : Bool) : (s.setPins d c l e).trkEn = s.trkEn := rfl
@[simp] theorem setPins_head (d c l : PinId) (e : Bool) : (s.setPins d c l e).head = s.head := rfl
@[simp] theorem setPins_buf (d c l : PinId) (e : Bool) : (s.setPins d c l e).buf = s.buf := rfl
@[simp] theorem setPins_response (d c l : PinId) (e : Bool) : (s.setPins d c l e).response = s.response := rfl
@[simp] theorem setPins_trace (d c l : PinId) (e : Bool) : (s.setPins d c l e).trace = s.trace := rfl
@[simp] theorem setPins_pinCalls (d c l : PinId) (e : Bool) : (s.setPins d c l e).pinCalls = s.pinCalls := rfl
@[simp] theorem setPins_sh (d c l : PinId) (e : Bool) : (s.setPins d c l e).sh = s.sh := rfl
@[simp] theorem setPins_out (d c l : PinId) (e : Bool) : (s.setPins d c l e).out = s.out := rfl
@[simp] theorem setPins_port (d c l : PinId) (e : Bool) : (s.setPins d c l e).port = s.port := rfl
@[simp] theorem setPins_draws (d c l : PinId) (e : Bool) : (s.setPins d c l e).draws = s.draws := rfl

@[simp] theorem setPinNoe_cfg (e : PinId) : (s.setPinNoe e).cfg = s.cfg := rfl
@[simp] theorem setPinNoe_constructed (e : PinId) : (s.setPinNoe e).constructed = s.constructed := rfl
@[simp] theorem setPinNoe_chainLen (e : PinId) : (s.setPinNoe e).chainLen = s.chainLen := rfl
@[simp] theorem setPinNoe_autoUpdate (e : PinId) : (s.setPinNoe e).autoUpdate = s.autoUpdate := rfl
@[simp] theorem setPinNoe_updState (e : PinId) : (s.setPinNoe e).updState = s.updState := rfl
@[simp] theorem setPinNoe_sentCount (e : PinId) : (s.setPinNoe e).sentCount = s.sentCount := rfl
@[simp] theorem setPinNoe_setupDone (e : PinId) : (s.setPinNoe e).setupDone = s.setupDone := rfl
@[simp] theorem setPinNoe_hasNoe (e : PinId) : (s.setPinNoe e).hasNoe = s.hasNoe := rfl
@[simp] theorem setPinNoe_pinData (e : PinId) : (s.setPinNoe e).pinData = s.pinData := rfl
@[simp] theorem setPinNoe_pinClock (e : PinId) : (s.setPinNoe e).pinClock = s.pinClock := rfl
@[simp] theorem setPinNoe_pinLatch (e : PinId) : (s.setPinNoe e).pinLatch = s.pinLatch := rfl
@[simp] theorem setPinNoe_pinNoe (e : PinId) : (s.setPinNoe e).pinNoe = e := rfl
@[simp] theorem setPinNoe_trkAlloc (e : PinId) : (s.setPinNoe e).trkAlloc = s.trkAlloc := rfl
@[simp] theorem setPinNoe_trkEn (e : PinId) : (s.setPinNoe e).trkEn = s.trkEn := rfl
@[simp] theorem setPinNoe_head (e : PinId) : (s.setPinNoe e).head = s.head := rfl
@[simp] theorem setPinNoe_buf (e : PinId) : (s.setPinNoe e).buf = s.buf := rfl
@[simp] theorem setPinNoe_response (e : PinId) : (s.setPinNoe e).response = s.response := rfl
@[simp] theorem setPinNoe_trace (e : PinId) : (s.setPinNoe e).trace = s.trace := rfl
@[simp] theorem setPinNoe_pinCalls (e : PinId) : (s.setPinNoe e).pinCalls = s.pinCalls := rfl
@[simp] theorem setPinNoe_sh (e : PinId) : (s.setPinNoe e).sh = s.sh := rfl
@[simp] theorem setPinNoe_out (e : PinId) : (s.setPinNoe e).out = s.out := rfl
@[simp] theorem setPinNoe_port (e : PinId) : (s.setPinNoe e).port = s.port := rfl
@[simp] theorem setPinNoe_draws (e : PinId) : (s.setPinNoe e).draws = s.draws := rfl

@[simp] theorem setPort_cfg (p : List Stimulus) : (s.setPort p).cfg = s.cfg := rfl
@[simp] theorem setPort_constructed (p : List Stimulus) : (s.setPort p).constructed = s.constructed := rfl
@[simp] theorem setPort_chainLen (p : List Stimulus) : (s.setPort p).chainLen = s.chainLen := rfl
@[simp] theorem setPort_autoUpdate (p : List Stimulus) : (s.setPort p).autoUpdate = s.autoUpdate := rfl
@[simp] theorem setPort_updState (p : List Stimulus) : (s.setPort p).updState = s.updState := rfl
@[simp] theorem setPort_sentCount (p : List Stimulus) : (s.setPort p).sentCount = s.sentCount := rfl
@[simp] theorem setPort_setupDone (p : List Stimulus) : (s.setPort p).setupDone = s.setupDone := rfl
@[simp] theorem setPort_hasNoe (p : List Stimulus) : (s.setPort p).hasNoe = s.hasNoe := rfl
@[simp] theorem setPort_pinData (p : List Stimulus) : (s.setPort p).pinData = s.pinData := rfl
@[simp] theorem setPort_pinClock (p : List Stimulus) : (s.setPort p).pinClock = s.pinClock := rfl
@[simp] theorem setPort_pinLatch (p : List Stimulus) : (s.setPort p).pinLatch = s.pinLatch := rfl
@[simp] theorem setPort_pinNoe (p : List Stimulus) : (s.setPort p).pinNoe = s.pinNoe := rfl
@[simp] theorem setPort_trkAlloc (p : List Stimulus) : (s.setPort p).trkAlloc = s.trkAlloc := rfl
@[simp] theorem setPort_trkEn (p : List Stimulus) : (s.setPort p).trkEn = s.trkEn := rfl
@[simp] theorem setPort_head (p : List Stimulus) : (s.setPort p).head = s.head := rfl
@[simp] theorem setPort_buf (p : List Stimulus) : (s.setPort p).buf = s.buf := rfl
@[simp] theorem setPort_response (p : List Stimulus) : (s.setPort p).response = s.response := rfl
@[simp] theorem setPort_trace (p : List Stimulus) : (s.setPort p).trace = s.trace := rfl
@[simp] theorem setPort_pinCalls (p : List Stimulus) : (s.setPort p).pinCalls = s.pinCalls := rfl
@[simp] theorem setPort_sh (p : List Stimulus) : (s.setPort p).sh = s.sh := rfl
@[simp] theorem setPort_out (p : List Stimulus) : (s.setPort p).out = s.out := rfl
@[simp] theorem setPort_port (p : List Stimulus) : (s.setPort p).port = p := rfl
@[simp] theorem setPort_draws (p : List Stimulus) : (s.setPort p).draws = s.draws := rfl

@[simp] theorem drawn_cfg : s.drawn.cfg = s.cfg := rfl
@[simp] theorem drawn_constructed : s.drawn.constructed = s.constructed := rfl
@[simp] theorem drawn_chainLen : s.drawn.chainLen = s.chainLen := rfl
@[simp] theorem drawn_autoUpdate : s.drawn.autoUpdate = s.autoUpdate := rfl
@[simp] theorem drawn_updState : s.drawn.updState = s.updState := rfl
@[simp] theorem drawn_sentCount : s.drawn.sentCount = s.sentCount := rfl
@[simp] theorem drawn_setupDone : s.drawn.setupDone = s.setupDone := rfl
@[simp] theorem drawn_hasNoe : s.drawn.hasNoe = s.hasNoe := rfl
@[simp] theorem drawn_pinData : s.drawn.pinData = s.pinData := rfl
@[simp] theorem drawn_pinClock : s.drawn.pinClock = s.pinClock := rfl
@[simp] theorem drawn_pinLatch : s.drawn.pinLatch = s.pinLatch := rfl
@[simp] theorem drawn_pinNoe : s.drawn.pinNoe = s.pinNoe := rfl
@[simp] theorem drawn_trkAlloc : s.drawn.trkAlloc = s.trkAlloc := rfl
@[simp] theorem drawn_trkEn : s.drawn.trkEn = s.trkEn := rfl
@[simp] theorem drawn_head : s.drawn.head = s.head := rfl
@[simp] theorem drawn_buf : s.drawn.buf = s.buf := rfl
@[simp] theorem drawn_response : s.drawn.response = s.response := rfl
@[simp] theorem drawn_trace : s.drawn.trace = s.trace := rfl
@[simp] theorem drawn_pinCalls : s.drawn.pinCalls = s.pinCalls := rfl
@[simp] theorem drawn_sh : s.drawn.sh = s.sh := rfl
@[simp] theorem drawn_out : s.drawn.out = s.out := rfl
@[simp] theorem drawn_port : s.drawn.port = s.port := rfl
@[simp] theorem drawn_draws : s.drawn.draws = s.draws + 1 := rfl

end Sys2Proof.Machine
end

