-- ==== Sys2Proof/Laws/Ops.lean ====
section
/-! SUPPORT. For each shared operation, what it can do, said once: the outcomes in sequence, the ring write, the wire, the update cycle and the recording of a send. -/

namespace Sys2Proof.Machine

/-! ## Outcomes in sequence -/

@[simp] theorem andThen_next (s : State) (f : State → Host.Outcome State Fault Refusal) :
    andThen (.next s) f = f s := rfl
@[simp] theorem andThen_fault (r : Fault) (f : State → Host.Outcome State Fault Refusal) :
    andThen (.fault r) f = .fault r := rfl
@[simp] theorem andThen_refused (r : Refusal) (f : State → Host.Outcome State Fault Refusal) :
    andThen (.refused r) f = .refused r := rfl

/-- A sequence answers a next state only through a next state of its first part. -/
theorem andThen_eq_next {o : Host.Outcome State Fault Refusal} {f : State → Host.Outcome State Fault Refusal}
    {t : State} (h : andThen o f = .next t) : ∃ s, o = .next s ∧ f s = .next t := by
  cases o with
  | next s => exact ⟨s, rfl, h⟩
  | fault r => cases h
  | refused r => cases h

@[simp] theorem finish_eq (r : Result) (s : State) : finish r s = .next (s.respond (.success r)) := rfl
@[simp] theorem raise_eq (c : ResultCode) (r : Result) (s : State) : raise c r s = .next (s.respond ⟨c, r⟩) := rfl

/-- Behind the guard the operation is performed. -/
theorem whenConstructed_of {s : State} (h : s.constructed = true) (k : Host.Outcome State Fault Refusal) :
    whenConstructed s k = k := by simp [whenConstructed, h]

/-- Before the first NEW_CHAIN the guard refuses. -/
theorem whenConstructed_not {s : State} (h : s.constructed = false) (k : Host.Outcome State Fault Refusal) :
    whenConstructed s k = .refused .beforeReset := by simp [whenConstructed, h]

/-- A next state behind the guard is one of the guarded operation. -/
theorem whenConstructed_eq_next {s t : State} {k : Host.Outcome State Fault Refusal}
    (h : whenConstructed s k = .next t) : s.constructed = true ∧ k = .next t := by
  by_cases hc : s.constructed = true
  · exact ⟨hc, by rwa [whenConstructed_of hc] at h⟩
  · rw [whenConstructed_not (by simpa using hc)] at h
    cases h

/-- An operation that only answers completes after a NEW_CHAIN, and changes nothing but the response. -/
theorem whenConstructed_finish {s : State} (h : s.constructed = true) (r : Result) :
    whenConstructed s (finish r s) = .next { s with response := ⟨.ok, r⟩ } := whenConstructed_of h _

/-- All that an operation that only answers can do when it completes. -/
theorem whenConstructed_finish_eq_next {s t u : State} {r : Result} (h : whenConstructed s (finish r u) = .next t) :
    s.constructed = true ∧ t = u.respond (.success r) := by
  obtain ⟨hc, h⟩ := whenConstructed_eq_next h
  cases h
  exact ⟨hc, rfl⟩

/-! ## The ring write -/

/-- What a ring write can do: nothing while tracking is off; else it moves `head` and writes that one slot. -/
theorem writeRing_eq_next {p : Packet} {s t : State} (h : writeRing p s = .next t) :
    (s.trkEn = false ∧ t = s) ∨
    (s.trkEn = true ∧ ∃ m, Memory.write s.buf (nextHead s) p = some m ∧ t = s.setRing (nextHead s) m) := by
  by_cases he : s.trkEn = true
  · simp only [writeRing, he, if_true] at h
    split at h
    · rename_i m hm
      cases h
      exact .inr ⟨he, m, hm, rfl⟩
    · cases h
  · simp only [writeRing, he] at h
    cases h
    exact .inl ⟨by simpa using he, rfl⟩

/-- With tracking off a ring write does nothing. -/
theorem writeRing_off {p : Packet} {s : State} (h : s.trkEn = false) : writeRing p s = .next s := by
  simp [writeRing, h]

/-- The new head is a slot index. -/
theorem nextHead_lt {s : State} (hl : 1 ≤ s.chainLen) (hh : s.head ≤ s.chainLen) : nextHead s < s.chainLen := by
  unfold nextHead
  split <;> omega

/-- In a whole ring the write finds its slot. -/
theorem writeRing_on {p : Packet} {s : State} (he : s.trkEn = true) (hl : 1 ≤ s.chainLen)
    (hw : s.buf.map Prod.fst = List.range s.chainLen ∧ s.head ≤ s.chainLen) :
    ∃ m, Memory.write s.buf (nextHead s) p = some m ∧ writeRing p s = .next (s.setRing (nextHead s) m) := by
  obtain ⟨m, hm⟩ := Memory.write_exists p
    (show nextHead s ∈ s.buf.map Prod.fst by rw [hw.1]; exact List.mem_range.2 (nextHead_lt hl hw.2))
  exact ⟨m, hm, by simp [writeRing, he, hm]⟩

/-- After a write, logical position 0 is the new head. -/
theorem phys_after_write_zero {s : State} (m : Memory) (hl : 1 ≤ s.chainLen) (hh : s.head ≤ s.chainLen) :
    phys (s.setRing (nextHead s) m) 0 = nextHead s := by
  simp [phys, Nat.mod_eq_of_lt (nextHead_lt hl hh)]

/-- After a write, position `k + 1` is the slot that was position `k`. -/
theorem phys_after_write_succ {s : State} (m : Memory) (k : Nat) (hl : 1 ≤ s.chainLen) :
    phys (s.setRing (nextHead s) m) (k + 1) = phys s k := by
  simp only [phys, setRing_head, setRing_chainLen, nextHead]
  split
  · rename_i h0
    rw [h0, show s.chainLen - 1 + (k + 1) = s.chainLen + k by omega, Nat.add_mod_left, Nat.zero_add]
  · congr 1
    omega

/-- After a write, position `k + 1` below L is not the slot written. -/
theorem phys_succ_ne_nextHead {s : State} {k : Nat} (m : Memory) (hk : k + 1 < s.chainLen)
    (hh : s.head ≤ s.chainLen) : phys (s.setRing (nextHead s) m) (k + 1) ≠ nextHead s := by
  have hlt := nextHead_lt (s := s) (by omega) hh
  simp only [phys, setRing_head, setRing_chainLen]
  by_cases hc : nextHead s + (k + 1) < s.chainLen
  · rw [Nat.mod_eq_of_lt hc]; omega
  · rw [Nat.mod_eq_sub_mod (by omega), Nat.mod_eq_of_lt (by omega)]; omega

/-- The ring seen in logical order after a write: the new packet first, every other one position further down. -/
theorem readPosition_after_write {p : Packet} {s : State} {m : Memory} {k : Nat}
    (hm : Memory.write s.buf (nextHead s) p = some m) (hk : k < s.chainLen) (hh : s.head ≤ s.chainLen) :
    readPosition (s.setRing (nextHead s) m) k = if k = 0 then some p else readPosition s (k - 1) := by
  cases k with
  | zero =>
    simp only [readPosition, phys_after_write_zero m (by omega) hh, setRing_buf, if_true]
    exact Memory.read_write_same hm
  | succ j =>
    have hne := phys_succ_ne_nextHead (s := s) m hk hh
    simp only [readPosition, setRing_buf, Nat.succ_ne_zero, if_false, Nat.add_sub_cancel]
    rw [Memory.read_write_other hm hne, phys_after_write_succ m j (by omega)]

/-- In a whole ring every logical position below L reads. -/
theorem readPosition_exists {s : State} {k : Nat} (hk : k < s.chainLen)
    (hw : s.buf.map Prod.fst = List.range s.chainLen) : ∃ v, readPosition s k = some v :=
  Memory.read_exists (by rw [hw]; exact List.mem_range.2 (Nat.mod_lt _ (by omega)))

/-- The positions read, one by one. -/
theorem readPositions_spec {s : State} {ks : List Nat} {ps : List Packet} (h : readPositions s ks = some ps) :
    ps.map some = ks.map (readPosition s) := by
  induction ks generalizing ps with
  | nil => simp only [readPositions, Option.some.injEq] at h; subst h; rfl
  | cons k ks ih =>
    simp only [readPositions] at h
    split at h
    · rename_i p qs hp hq
      cases h
      simp [hp, ih hq]
    · cases h

/-- Positions that all read are read together. -/
theorem readPositions_of {s : State} {ks : List Nat} {ps : List Packet} (h : ps.map some = ks.map (readPosition s)) :
    readPositions s ks = some ps := by
  induction ks generalizing ps with
  | nil => simp at h; simp [readPositions, h]
  | cons k ks ih =>
    cases ps with
    | nil => simp at h
    | cons p ps =>
      simp only [List.map_cons, List.cons.injEq] at h
      simp [readPositions, ← h.1, ih h.2]

/-! ## The wire -/

/-- Shifting bits appends their calls and their events and does nothing else. -/
theorem shiftBits_eq (bs : List Bool) (s : State) :
    shiftBits bs s = (s.pushCalls (bs.flatMap (shiftBitCalls s))).pushEvents (bs.map WireEvent.shift) := by
  induction bs generalizing s with
  | nil => simp [shiftBits, State.pushCalls, State.pushEvents]
  | cons b bs ih =>
    have hc : shiftBitCalls (shiftBit b s) = shiftBitCalls s := rfl
    rw [shiftBits, ih, hc]
    simp [shiftBit, State.pushCalls, State.pushEvents]

/-- A packet has 32 bits on the wire. -/
@[simp] theorem packetBits_length (p : Packet) : (packetBits p).length = 32 := by simp [packetBits]

/-- The shift registers keep their number. -/
@[simp] theorem shiftIn_length (p : Packet) (sh : List Packet) : (shiftIn p sh).length = sh.length := by
  simp [shiftIn]

/-- One packet on the wire. -/
theorem transmitOne_eq (p : Packet) (s : State) :
    transmitOne p s =
      ((s.pushCalls ((packetBits p).flatMap (shiftBitCalls s))).pushEvents ((packetBits p).map WireEvent.shift)).setShift
        (shiftIn p s.sh) := by
  simp [transmitOne, shiftBits_eq]

/-- Shifting `n` more after one is shifting `n + 1`. -/
theorem shiftIn_replicate (n : Nat) (p : Packet) (sh : List Packet) :
    (List.replicate n p ++ (p :: sh).take sh.length).take sh.length
      = (List.replicate (n + 1) p ++ sh).take sh.length := by
  have h1 : ∀ (a b : List Packet) (l : Nat), (a ++ b.take l).take l = (a ++ b).take l := by
    intro a b l
    simp only [List.take_append, List.take_take]
    congr 2
    omega
  rw [h1, List.replicate_succ', List.append_assoc, List.singleton_append]

/-- `n` packets on the wire: their calls, their events, and the chain shifted `n` times. -/
theorem transmit_eq (p : Packet) (n : Nat) (s : State) :
    transmit p n s =
      ((s.pushCalls (List.replicate n ((packetBits p).flatMap (shiftBitCalls s))).flatten).pushEvents
        (List.replicate n ((packetBits p).map WireEvent.shift)).flatten).setShift
        ((List.replicate n p ++ s.sh).take s.sh.length) := by
  induction n generalizing s with
  | zero => simp [transmit, State.pushCalls, State.pushEvents, State.setShift]
  | succ n ih =>
    have hc : shiftBitCalls (transmitOne p s) = shiftBitCalls s := by
      funext b; simp [transmitOne_eq, shiftBitCalls]
    have hs := shiftIn_replicate n p s.sh
    simp only [transmit, ih, hc]
    simp only [transmitOne_eq, State.pushCalls, State.pushEvents, State.setShift, shiftIn, List.length_take,
      List.length_cons, List.replicate_succ, List.flatten_cons, List.append_assoc]
    simp only [Nat.le_succ, Nat.min_eq_left]
    rw [hs]
    simp [List.replicate_succ]

/-! ## The update cycle -/

/-- What opening a cycle can do. -/
theorem openCycle_eq_next {s t : State} (h : openCycle s = .next t) :
    s.updState = .idle ∧ t = (s.setUpd .updating).setCount 0 := by
  unfold openCycle at h
  split at h
  · cases h
  · rename_i hu
    cases h
    exact ⟨by cases hs : s.updState <;> simp_all, rfl⟩

/-- From Idle a cycle opens. -/
theorem openCycle_idle {s : State} (h : s.updState = .idle) : openCycle s = .next ((s.setUpd .updating).setCount 0) := by
  simp [openCycle, h]

/-- While Updating no cycle opens. -/
theorem openCycle_updating {s : State} (h : s.updState = .updating) : openCycle s = .refused .nestedUpdate := by
  simp [openCycle, h]

/-- From Updating a cycle closes, with a latch when something was counted. -/
theorem closeCycle_updating {s : State} (h : s.updState = .updating) :
    closeCycle s = .next ((if 0 < s.sentCount then latchPulse s else s).setUpd .idle) := by
  unfold closeCycle
  split
  · simp_all
  · split <;> simp_all

/-- From Idle no cycle closes. -/
theorem closeCycle_idle {s : State} (h : s.updState = .idle) : closeCycle s = .refused .endWithoutBegin := by
  simp [closeCycle, h]

/-- What closing a cycle can do. -/
theorem closeCycle_eq_next {s t : State} (h : closeCycle s = .next t) :
    s.updState = .updating ∧ t = (if 0 < s.sentCount then latchPulse s else s).setUpd .idle := by
  cases hu : s.updState with
  | idle => rw [closeCycle_idle hu] at h; cases h
  | updating => rw [closeCycle_updating hu] at h; cases h; exact ⟨rfl, rfl⟩

/-! ## Recording a send -/

/-- What one count and one ring write can do. -/
theorem recordSent_eq_next {p : Packet} {n : Nat} {s t : State} (h : recordSent p n s = .next t) :
    t = (s.setRing t.head t.buf).setCount t.sentCount := by
  induction n generalizing s with
  | zero => cases h; simp [State.setRing, State.setCount]
  | succ n ih =>
    obtain ⟨u, hu, ht⟩ := andThen_eq_next h
    have := ih ht
    rcases writeRing_eq_next hu with ⟨-, rfl⟩ | ⟨-, m, -, rfl⟩ <;>
      (rw [this]; simp [State.setRing, State.setCount, countOne])

/-- A ring write keeps the slots there are. -/
theorem writeRing_keys {p : Packet} {s t : State} (h : writeRing p s = .next t) :
    t.buf.map Prod.fst = s.buf.map Prod.fst := by
  rcases writeRing_eq_next h with ⟨-, rfl⟩ | ⟨-, m, hm, rfl⟩
  · rfl
  · exact Memory.write_keys hm

/-- Recording keeps the slots there are. -/
theorem recordSent_keys {p : Packet} {n : Nat} {s t : State} (h : recordSent p n s = .next t) :
    t.buf.map Prod.fst = s.buf.map Prod.fst := by
  induction n generalizing s with
  | zero => cases h; rfl
  | succ n ih =>
    obtain ⟨u, hu, ht⟩ := andThen_eq_next h
    rw [ih ht, writeRing_keys hu]
    rfl

/-- The count after `n` packets. -/
theorem recordSent_count {p : Packet} {n : Nat} {s t : State} (h : recordSent p n s = .next t) :
    t.sentCount = if n = 0 then s.sentCount else (s.sentCount + n) % 2 ^ s.cfg.countW := by
  induction n generalizing s with
  | zero => cases h; simp
  | succ n ih =>
    obtain ⟨u, hu, ht⟩ := andThen_eq_next h
    have hc : u.sentCount = (s.sentCount + 1) % 2 ^ s.cfg.countW ∧ u.cfg = s.cfg := by
      rcases writeRing_eq_next hu with ⟨-, rfl⟩ | ⟨-, m, -, rfl⟩ <;> simp [countOne]
    rw [ih ht, hc.1, hc.2]
    by_cases hn : n = 0
    · simp [hn]
    · simp only [hn, if_false, Nat.succ_ne_zero, Nat.mod_add_mod]
      congr 1
      omega

/-- With tracking off, recording counts and does nothing else. -/
theorem recordSent_off {p : Packet} {n : Nat} {s : State} (he : s.trkEn = false) :
    recordSent p n s = .next (s.setCount (if n = 0 then s.sentCount else (s.sentCount + n) % 2 ^ s.cfg.countW)) := by
  have key : ∃ t, recordSent p n s = .next t ∧ t.head = s.head ∧ t.buf = s.buf := by
    induction n generalizing s with
    | zero => exact ⟨s, rfl, rfl, rfl⟩
    | succ n ih =>
      obtain ⟨t, ht, h1, h2⟩ := ih (s := countOne s) (by simpa [countOne] using he)
      refine ⟨t, ?_, ?_, ?_⟩
      · simp only [recordSent, writeRing_off (s := countOne s) (by simpa [countOne] using he), andThen_next]
        exact ht
      · rw [h1]; simp [countOne]
      · rw [h2]; simp [countOne]
  obtain ⟨t, ht, h1, h2⟩ := key
  rw [ht, recordSent_eq_next ht, h1, h2, recordSent_count ht]
  simp [State.setRing, State.setCount]

/-- One more write moves the head one further. -/
theorem headAfter_succ {s : State} (n : Nat) (hl : 1 ≤ s.chainLen) (hh : s.head ≤ s.chainLen) :
    headAfter s.chainLen (nextHead s) n = headAfter s.chainLen s.head (n + 1) := by
  have hlt := nextHead_lt hl hh
  have h1 : nextHead s = (s.head + (s.chainLen - 1)) % s.chainLen := by
    unfold nextHead
    split
    · rename_i h0
      rw [h0, Nat.zero_add, Nat.mod_eq_of_lt (by omega)]
    · rw [show s.head + (s.chainLen - 1) = s.head - 1 + s.chainLen by omega, Nat.add_mod_right,
        Nat.mod_eq_of_lt (by omega)]
  unfold headAfter
  by_cases hn : n = 0
  · simp [hn, h1]
  · simp only [hn, if_false, Nat.succ_ne_zero, h1, Nat.mod_add_mod]
    congr 1
    rw [Nat.succ_mul]
    omega

/-- Recording in a whole ring: the head goes down `n` times, and in logical order the `n` new packets come first and
every other one stands `n` positions further down. -/
theorem recordSent_on {p : Packet} {n : Nat} {s : State} (he : s.trkEn = true) (hl : 1 ≤ s.chainLen)
    (hw : s.buf.map Prod.fst = List.range s.chainLen ∧ s.head ≤ s.chainLen) :
    ∃ t, recordSent p n s = .next t ∧ t.head = headAfter s.chainLen s.head n
      ∧ t.buf.map Prod.fst = List.range s.chainLen
      ∧ ∀ k, k < s.chainLen → readPosition t k = if k < n then some p else readPosition s (k - n) := by
  induction n generalizing s with
  | zero => exact ⟨s, rfl, by simp [headAfter], hw.1, fun k _ => by simp⟩
  | succ n ih =>
    obtain ⟨m, hm, hwr⟩ := writeRing_on (p := p) (s := countOne s) (by simpa [countOne] using he)
      (by simpa [countOne] using hl) (by simpa [countOne] using hw)
    have hm' : Memory.write s.buf (nextHead s) p = some m := hm
    have hnh : nextHead (countOne s) = nextHead s := rfl
    have hlt := nextHead_lt hl hw.2
    rw [hnh] at hwr
    obtain ⟨t, ht, h1, h2, h3⟩ := ih (s := (countOne s).setRing (nextHead s) m) (by simpa [countOne] using he)
      (by simpa [countOne] using hl)
      (by simpa [countOne, Memory.write_keys hm', hw.1] using hlt.le)
    refine ⟨t, by simp [recordSent, hwr, ht], ?_, by simpa [countOne] using h2, ?_⟩
    · rw [h1]; simpa [countOne] using headAfter_succ n hl hw.2
    · intro k hk
      rw [h3 k (by simpa [countOne] using hk)]
      by_cases hkn : k < n
      · simp [hkn, Nat.lt_succ_of_lt hkn]
      · have := readPosition_after_write (p := p) (s := s) (k := k - n) hm' (by omega) hw.2
        simp only [hkn, if_false]
        have hb : readPosition ((countOne s).setRing (nextHead s) m) (k - n)
            = readPosition (s.setRing (nextHead s) m) (k - n) := by simp [readPosition, phys, countOne]
        rw [hb, this]
        by_cases hk0 : k = n
        · subst hk0; simp
        · have h4 : ¬ k < n + 1 := by omega
          have h5 : k - n ≠ 0 := by omega
          simp [h4, h5, Nat.sub_sub]

end Sys2Proof.Machine
end

