-- ==== Sys2Proof/Laws/PerInstr.lean ====
section
/-! SUPPORT. One family of per-instruction facts about the encoding: every instruction is presented with the select code of its row (30_encoding.md R74), or, for the two packet rows, with the mode flag of its format (R70). -/

namespace Sys2Proof.Laws.SelectCode

/-- How a row is told apart: its select code (30_encoding.md R74), or for a packet format the value of bit 30 (R70). -/
inductive Mark where
  | code (c : Nat)
  | flag (b : Bool)

/-- The table of 30_encoding.md R74 and R70, written out again. -/
def mark : Instr → Mark
  | .pktPwm _ _ _ _ => .flag false
  | .pktCorr _ _ _ _ _ _ _ _ _ _ => .flag true
  | .buildPwm _ _ _ => .code 0x00
  | .buildCorr _ _ _ _ => .code 0x01
  | .rawValue _ => .code 0x02
  | .modeOf _ => .code 0x03
  | .pwmView _ => .code 0x04
  | .corrView _ => .code 0x05
  | .decodeView _ => .code 0x06
  | .setTracking _ => .code 0x08
  | .trkWrite _ => .code 0x09
  | .getState _ => .code 0x0A
  | .saveState => .code 0x0B
  | .restoreState _ => .code 0x0C
  | .newChain _ _ => .code 0x10
  | .setup3 _ _ _ => .code 0x11
  | .setup4 _ _ _ _ => .code 0x12
  | .getAuto => .code 0x13
  | .setAuto _ => .code 0x14
  | .setEnabled _ => .code 0x15
  | .beginUpdate => .code 0x16
  | .endUpdate => .code 0x17
  | .transmit _ _ => .code 0x18
  | .sendPacket _ _ => .code 0x19
  | .sendPackets _ => .code 0x1A
  | .sendAll _ => .code 0x1B
  | .sendPwm _ _ _ => .code 0x1C
  | .sendCorr _ _ _ _ => .code 0x1D

/-- What is presented carries the mark of the instruction's row. -/
def Statement (i : Instr) : Prop :=
  ∀ cfg : Config,
    match mark i with
    | .code c => ∃ bs pins, encode cfg i = .command (BitVec.ofNat 8 c :: bs) pins
    | .flag b => ∃ w, encode cfg i = .packet w ∧ w.getLsbD 30 = b

/-- `pktPwm` is presented with its row's mode flag. -/
theorem pktPwm (u : BitVec 1) (c2 c1 c0 : BitVec 10) : Statement (.pktPwm u c2 c1 c0) := by
  intro cfg
  refine ⟨_, rfl, ?_⟩
  simp only [pwmWord, modePwm, BitVec.getLsbD_append]
  simp

/-- `pktCorr` is presented with its row's mode flag. -/
theorem pktCorr (u t1 t0 p27 : BitVec 1) (c2 : BitVec 7) (p19 : BitVec 3) (c1 : BitVec 7) (p9 : BitVec 1)
    (m : BitVec 2) (c0 : BitVec 7) : Statement (.pktCorr u t1 t0 p27 c2 p19 c1 p9 m c0) := by
  intro cfg
  refine ⟨_, rfl, ?_⟩
  simp only [corrWord, modeCorr, BitVec.getLsbD_append]
  simp

/-- `buildPwm` is presented with its row's select code. -/
theorem buildPwm (a b c : Nat) : Statement (.buildPwm a b c) := fun _ => ⟨_, _, rfl⟩

/-- `buildCorr` is presented with its row's select code. -/
theorem buildCorr (a b c m : Nat) : Statement (.buildCorr a b c m) := fun _ => ⟨_, _, rfl⟩

/-- `rawValue` is presented with its row's select code. -/
theorem rawValue (p : Packet) : Statement (.rawValue p) := fun _ => ⟨_, _, rfl⟩

/-- `modeOf` is presented with its row's select code. -/
theorem modeOf (p : Packet) : Statement (.modeOf p) := fun _ => ⟨_, _, rfl⟩

/-- `pwmView` is presented with its row's select code. -/
theorem pwmView (p : Packet) : Statement (.pwmView p) := fun _ => ⟨_, _, rfl⟩

/-- `corrView` is presented with its row's select code. -/
theorem corrView (p : Packet) : Statement (.corrView p) := fun _ => ⟨_, _, rfl⟩

/-- `decodeView` is presented with its row's select code. -/
theorem decodeView (p : Packet) : Statement (.decodeView p) := fun _ => ⟨_, _, rfl⟩

/-- `setTracking` is presented with its row's select code. -/
theorem setTracking (b : Bool) : Statement (.setTracking b) := fun _ => ⟨_, _, rfl⟩

/-- `trkWrite` is presented with its row's select code. -/
theorem trkWrite (p : Packet) : Statement (.trkWrite p) := fun _ => ⟨_, _, rfl⟩

/-- `getState` is presented with its row's select code. -/
theorem getState (k : Nat) : Statement (.getState k) := fun _ => ⟨_, _, rfl⟩

/-- `saveState` is presented with its row's select code. -/
theorem saveState : Statement (.saveState) := fun _ => ⟨_, _, rfl⟩

/-- `restoreState` is presented with its row's select code. -/
theorem restoreState (ps : List Packet) : Statement (.restoreState ps) := fun _ => ⟨_, _, rfl⟩

/-- `newChain` is presented with its row's select code. -/
theorem newChain (n : Nat) (b : Bool) : Statement (.newChain n b) := fun _ => ⟨_, _, rfl⟩

/-- `setup3` is presented with its row's select code. -/
theorem setup3 (d c l : PinId) : Statement (.setup3 d c l) := fun _ => ⟨_, _, rfl⟩

/-- `setup4` is presented with its row's select code. -/
theorem setup4 (d c l e : PinId) : Statement (.setup4 d c l e) := fun _ => ⟨_, _, rfl⟩

/-- `getAuto` is presented with its row's select code. -/
theorem getAuto : Statement (.getAuto) := fun _ => ⟨_, _, rfl⟩

/-- `setAuto` is presented with its row's select code. -/
theorem setAuto (b : Bool) : Statement (.setAuto b) := fun _ => ⟨_, _, rfl⟩

/-- `setEnabled` is presented with its row's select code. -/
theorem setEnabled (b : Bool) : Statement (.setEnabled b) := fun _ => ⟨_, _, rfl⟩

/-- `beginUpdate` is presented with its row's select code. -/
theorem beginUpdate : Statement (.beginUpdate) := fun _ => ⟨_, _, rfl⟩

/-- `endUpdate` is presented with its row's select code. -/
theorem endUpdate : Statement (.endUpdate) := fun _ => ⟨_, _, rfl⟩

/-- `transmit` is presented with its row's select code. -/
theorem transmit (p : Packet) (n : Nat) : Statement (.transmit p n) := fun _ => ⟨_, _, rfl⟩

/-- `sendPacket` is presented with its row's select code. -/
theorem sendPacket (p : Packet) (n : Nat) : Statement (.sendPacket p n) := fun _ => ⟨_, _, rfl⟩

/-- `sendPackets` is presented with its row's select code. -/
theorem sendPackets (ps : List Packet) : Statement (.sendPackets ps) := fun _ => ⟨_, _, rfl⟩

/-- `sendAll` is presented with its row's select code. -/
theorem sendAll (p : Packet) : Statement (.sendAll p) := fun _ => ⟨_, _, rfl⟩

/-- `sendPwm` is presented with its row's select code. -/
theorem sendPwm (a b c : Nat) : Statement (.sendPwm a b c) := fun _ => ⟨_, _, rfl⟩

/-- `sendCorr` is presented with its row's select code. -/
theorem sendCorr (a b c m : Nat) : Statement (.sendCorr a b c m) := fun _ => ⟨_, _, rfl⟩

end Sys2Proof.Laws.SelectCode
end

