-- ==== Sys2Proof/Laws/Ring.lean ====
section
/-! SUPPORT. What sends leave in the ring, composed: nothing, one write, one list of sends after another. -/

namespace Sys2Proof.Machine

/-- Two runs of writes after one another. -/
theorem headAfter_add (l h m n : Nat) : headAfter l (headAfter l h m) n = headAfter l h (m + n) := by
  unfold headAfter
  by_cases hm : m = 0
  · simp [hm]
  · by_cases hn : n = 0
    · simp [hn]
    · simp only [hm, hn, if_false, Nat.mod_add_mod]
      rw [if_neg (by omega)]
      congr 1
      ring

/-- The head after some writes is a slot index, or where it was. -/
theorem headAfter_le {l h n : Nat} (hl : 1 ≤ l) (hh : h ≤ l) : headAfter l h n ≤ l := by
  unfold headAfter
  split
  · exact hh
  · exact (Nat.mod_lt _ (by omega)).le

/-- One write moves the head as the ring write algorithm says. -/
theorem headAfter_one {s : State} (hl : 1 ≤ s.chainLen) (hh : s.head ≤ s.chainLen) :
    headAfter s.chainLen s.head 1 = nextHead s := by
  rw [← headAfter_succ 0 hl hh]
  simp [headAfter]

/-- What sends leave in the ring speaks of the ring's fields alone. -/
theorem ringAfter_congr {ps : List Packet} {s s' t t' : State} (h : ringAfter ps s t)
    (hs : s'.trkEn = s.trkEn ∧ s'.chainLen = s.chainLen ∧ s'.head = s.head ∧ s'.buf = s.buf)
    (ht : t'.head = t.head ∧ t'.buf = t.buf ∧ t'.chainLen = t.chainLen) : ringAfter ps s' t' := by
  obtain ⟨h1, h2, h3, h4⟩ := hs
  obtain ⟨k1, k2, k3⟩ := ht
  unfold ringAfter at h ⊢
  simpa only [State.ringWhole, readPosition, phys, h1, h2, h3, h4, k1, k2, k3] using h

/-- Nothing sent. -/
theorem ringAfter_nil {s t : State} (hw : s.trkEn = true → s.ringWhole) (hh : t.head = s.head) (hb : t.buf = s.buf)
    (hl : t.chainLen = s.chainLen) : ringAfter [] s t := by
  unfold ringAfter
  split
  · rename_i he
    refine ⟨by simp [headAfter, hh], ?_, ?_, fun a _ => by rw [hb]⟩
    · have := hw he
      simpa [State.ringWhole, hh, hb, hl] using this
    · intro k hk
      simp [readPosition, phys, hh, hb, hl]
  · exact ⟨hh, hb⟩

/-- One ring write, between states that may differ elsewhere. -/
theorem ringAfter_write {p : Packet} {s u v t : State} (h : writeRing p u = .next v)
    (hl : 1 ≤ s.chainLen) (hw : s.trkEn = true → s.ringWhole)
    (hu : u.head = s.head ∧ u.buf = s.buf ∧ u.chainLen = s.chainLen ∧ u.trkEn = s.trkEn)
    (ht : t.head = v.head ∧ t.buf = v.buf ∧ t.chainLen = s.chainLen) : ringAfter [p] s t := by
  obtain ⟨u1, u2, u3, u4⟩ := hu
  obtain ⟨t1, t2, t3⟩ := ht
  unfold ringAfter
  rcases writeRing_eq_next h with ⟨he, rfl⟩ | ⟨he, m, hm, rfl⟩
  · rw [if_neg (by rw [← u4, he]; simp)]
    exact ⟨t1.trans u1, t2.trans u2⟩
  · rw [if_pos (by rw [← u4, he])]
    have hws := hw (by rw [← u4, he])
    have hn : nextHead u = nextHead s := by simp [nextHead, u1, u3]
    rw [hn, u2] at hm
    simp only [setRing_head, hn, setRing_buf] at t1 t2
    have hone := headAfter_one (s := s) hl hws.2
    refine ⟨by rw [t1, ← hone]; rfl, ⟨by rw [t2, t3, Memory.write_keys hm, hws.1], ?_⟩, ?_, ?_⟩
    · rw [t1, t3]
      exact (nextHead_lt hl hws.2).le
    · intro k hk
      have hr : readPosition t k = readPosition (s.setRing (nextHead s) m) k := by
        simp [readPosition, phys, t1, t2, t3]
      rw [hr, readPosition_after_write hm hk hws.2]
      by_cases hk0 : k = 0
      · simp [hk0]
      · simp [hk0]
    · intro a ha
      rw [t2]
      refine Memory.read_write_other hm ?_
      rw [← hone]
      exact ha 1 le_rfl (by simp)

/-- One list of sends after another. -/
theorem ringAfter_append {ps qs : List Packet} {s t u : State} (h1 : ringAfter ps s t) (h2 : ringAfter qs t u)
    (hc : t.chainLen = s.chainLen) (hc' : u.chainLen = s.chainLen) (he : t.trkEn = s.trkEn) :
    ringAfter (ps ++ qs) s u := by
  unfold ringAfter at h1 h2 ⊢
  rw [he] at h2
  split
  · rename_i hen
    rw [if_pos hen] at h1 h2
    rw [hc] at h2
    obtain ⟨a1, a2, a3, a4⟩ := h1
    obtain ⟨b1, b2, b3, b4⟩ := h2
    refine ⟨by rw [b1, a1, headAfter_add, List.length_append], b2, ?_, ?_⟩
    · intro k hk
      rw [b3 k hk]
      simp only [List.length_append, List.reverse_append]
      by_cases hkq : k < qs.length
      · rw [if_pos hkq, if_pos (by omega), List.getElem?_append_left (by simpa using hkq)]
      · rw [if_neg hkq, a3 _ (by omega)]
        by_cases hkp : k - qs.length < ps.length
        · rw [if_pos hkp, if_pos (by omega), List.getElem?_append_right (by simpa using hkq)]
          simp
        · rw [if_neg hkp, if_neg (by omega)]
          congr 1
          omega
    · intro a ha
      rw [b4 a ?_, a4 a ?_]
      · intro j hj1 hj2
        exact ha j hj1 (by simp; omega)
      · intro j hj1 hj2
        rw [a1, headAfter_add]
        exact ha _ (by omega) (by simp; omega)
  · rename_i hen
    rw [if_neg hen] at h1 h2
    exact ⟨h2.1.trans h1.1, h2.2.trans h1.2⟩

end Sys2Proof.Machine
end

