-- ==== Sys2Proof/Laws/Sends.lean ====
section
/-! SUPPORT. What the sends can change: the frame of each, and that the slots there are stay the same. -/

namespace Sys2Proof.Machine

/-- What a send of any kind may change: the count, the ring, the wire and the chips. -/
def sendFrame (s t : State) : Prop :=
  t = { s with sentCount := t.sentCount, head := t.head, buf := t.buf, trace := t.trace, pinCalls := t.pinCalls,
               sh := t.sh, out := t.out }
  ∧ t.buf.map Prod.fst = s.buf.map Prod.fst

/-- Nothing changed is within the frame. -/
theorem sendFrame_refl (s : State) : sendFrame s s := ⟨rfl, rfl⟩

/-- The frame composes. -/
theorem sendFrame_trans {s t u : State} (h1 : sendFrame s t) (h2 : sendFrame t u) : sendFrame s u := by
  obtain ⟨a1, b1⟩ := h1
  obtain ⟨a2, b2⟩ := h2
  refine ⟨?_, b2.trans b1⟩
  rw [a2, a1]

/-- The body of a send stays within the frame, whatever the update cycle's state. -/
theorem sendBody_frame {p : Packet} {n : Nat} {s t : State} (h : sendBody p n s = .next t) : sendFrame s t := by
  refine ⟨?_, by rw [recordSent_keys h, transmit_eq]; rfl⟩
  obtain ⟨x, m, c, e⟩ : ∃ x m c, t = ((transmit p n s).setRing x m).setCount c := ⟨_, _, _, recordSent_eq_next h⟩
  obtain ⟨as, bs, cs, hT⟩ : ∃ as bs cs, transmit p n s = ((s.pushCalls as).pushEvents bs).setShift cs :=
    ⟨_, _, _, transmit_eq p n s⟩
  rw [hT] at e
  subst e
  simp only [State.setCount, State.setRing, State.setShift, State.pushEvents, State.pushCalls]

/-- A send stays within the frame: the update cycle ends as it began. -/
theorem sendRepeated_frame {p : Packet} {n : Nat} {s t : State} (h : sendRepeated p n s = .next t) :
    sendFrame s t := by
  unfold sendRepeated at h
  split at h
  · split at h
    · cases h
    · split at h
      · obtain ⟨a, ha, h⟩ := andThen_eq_next h
        obtain ⟨b, hb, hz⟩ := andThen_eq_next h
        obtain ⟨hi, rfl⟩ := openCycle_eq_next ha
        obtain ⟨-, rfl⟩ := closeCycle_eq_next hz
        obtain ⟨e1, e2⟩ := sendBody_frame hb
        refine ⟨?_, ?_⟩
        · have hs : s = { s with updState := .idle } := by rw [← hi]
          rw [hs, e1]
          split <;> rfl
        · split <;> exact e2
      · exact sendBody_frame h
  · cases h

/-- A list of sends stays within the frame. -/
theorem sendEach_frame {ps : List Packet} {s t : State} (h : sendEach ps s = .next t) : sendFrame s t := by
  induction ps generalizing s with
  | nil => cases h; exact sendFrame_refl _
  | cons p ps ih =>
    obtain ⟨u, hu, h⟩ := andThen_eq_next h
    exact sendFrame_trans (sendRepeated_frame hu) (ih h)

/-- A batch stays within the frame, and starts from Idle: auto-update and the update cycle end as they began. -/
theorem sendBatch_frame {ps : List Packet} {s t : State} (h : sendBatch ps s = .next t) :
    s.updState = .idle ∧ sendFrame s t := by
  obtain ⟨a, ha, h⟩ := andThen_eq_next h
  obtain ⟨b, hb, h⟩ := andThen_eq_next h
  obtain ⟨c, hc, h⟩ := andThen_eq_next h
  obtain ⟨hi, rfl⟩ := openCycle_eq_next ha
  obtain ⟨-, rfl⟩ := closeCycle_eq_next hc
  cases h
  obtain ⟨e1, e2⟩ := sendEach_frame hb
  have hi' : s.updState = .idle := hi
  refine ⟨hi', ?_, ?_⟩
  · have hs : s = { s with updState := .idle } := by rw [← hi']
    rw [hs, e1]
    split <;> rfl
  · split <;> exact e2

end Sys2Proof.Machine
end

