-- ==== Sys2Proof/Laws/SendSpecs.lean ====
section
/-! SUPPORT. The sends said once in closed form: that each completes, and everything it leaves. -/

namespace Sys2Proof.Machine

/-- One list of packets shifted in after another. -/
theorem chainAfter_append (ps qs sh : List Packet) :
    chainAfter qs (chainAfter ps sh) = chainAfter (ps ++ qs) sh := by
  have h1 : ∀ (a b : List Packet) (l : Nat), (a ++ b.take l).take l = (a ++ b).take l := by
    intro a b l
    simp only [List.take_append, List.take_take]
    congr 2
    omega
  unfold chainAfter
  simp only [List.length_take, List.length_append, List.length_reverse, List.reverse_append, List.append_assoc]
  rw [show min sh.length (ps.length + sh.length) = sh.length by omega, h1]

/-- What sends leave that neither open nor close a cycle: `c` counted, the packets on the wire, in the chips and in the
ring, nothing else. -/
def Sent (ps : List Packet) (c : Nat) (s t : State) : Prop :=
  t = { s with sentCount := c, head := t.head, buf := t.buf, trace := s.trace ++ wireOf ps,
               pinCalls := s.pinCalls ++ callsOf s ps, sh := chainAfter ps s.sh } ∧ ringAfter ps s t

/-- The wire events of `n` equal packets. -/
theorem wireOf_replicate (n : Nat) (p : Packet) :
    wireOf (List.replicate n p) = (List.replicate n ((packetBits p).map WireEvent.shift)).flatten := by
  simp [wireOf, List.flatMap, List.map_replicate]

/-- The pin calls of `n` equal packets. -/
theorem callsOf_replicate (s : State) (n : Nat) (p : Packet) :
    callsOf s (List.replicate n p) = (List.replicate n ((packetBits p).flatMap (shiftBitCalls s))).flatten := by
  simp [callsOf, List.flatMap, List.map_replicate]

/-- Recording `n` equal packets completes and leaves them in the ring. -/
theorem recordSent_ring {p : Packet} {n : Nat} {s : State} (hl : 1 ≤ s.chainLen) (hw : s.trkEn = true → s.ringWhole) :
    ∃ t, recordSent p n s = .next t ∧ ringAfter (List.replicate n p) s t := by
  induction n generalizing s with
  | zero => exact ⟨s, rfl, ringAfter_nil hw rfl rfl rfl⟩
  | succ n ih =>
    have : ∃ v, writeRing p (countOne s) = .next v := by
      by_cases he : s.trkEn = true
      · obtain ⟨m, _, h⟩ := writeRing_on (p := p) (s := countOne s) he hl (hw he)
        exact ⟨_, h⟩
      · exact ⟨_, writeRing_off (s := countOne s) (by simpa [countOne] using he)⟩
    obtain ⟨v, hv⟩ := this
    have hvf : v.chainLen = s.chainLen ∧ v.trkEn = s.trkEn := by
      rcases writeRing_eq_next hv with ⟨-, rfl⟩ | ⟨-, m, -, rfl⟩ <;> exact ⟨rfl, rfl⟩
    have h1 : ringAfter [p] s v := ringAfter_write hv hl hw ⟨rfl, rfl, rfl, rfl⟩ ⟨rfl, rfl, hvf.1⟩
    have hwv : v.trkEn = true → v.ringWhole := by
      intro he
      rw [hvf.2] at he
      unfold ringAfter at h1
      rw [if_pos he] at h1
      exact h1.2.1
    obtain ⟨t, ht, h2⟩ := ih (s := v) (by rw [hvf.1]; exact hl) hwv
    refine ⟨t, by simp only [recordSent, hv, andThen_next]; exact ht, ?_⟩
    have hct : t.chainLen = v.chainLen := by
      rw [recordSent_eq_next ht]; rfl
    exact ringAfter_append h1 h2 hvf.1 (hct.trans hvf.1) hvf.2

/-- The body of a send completes in a whole ring (or with tracking off), and what it leaves. -/
theorem sendBody_sent {p : Packet} {n : Nat} {s : State} (hl : 1 ≤ s.chainLen) (hw : s.trkEn = true → s.ringWhole) (hn : n ≠ 0) :
    ∃ t, sendBody p n s = .next t ∧ Sent (List.replicate n p) ((s.sentCount + n) % 2 ^ s.cfg.countW) s t := by
  obtain ⟨t, ht, hr⟩ := recordSent_ring (p := p) (n := n) (s := transmit p n s)
    (by rw [transmit_eq]; exact hl) (by rw [transmit_eq]; exact hw)
  refine ⟨t, ht, ?_, ?_⟩
  · rw [recordSent_eq_next ht, recordSent_count ht, if_neg hn, transmit_eq, wireOf_replicate, callsOf_replicate]
    simp [chainAfter, State.setRing, State.setCount, State.setShift, State.pushCalls, State.pushEvents]
  · obtain ⟨as, bs, cs, hT⟩ : ∃ as bs cs, transmit p n s = ((s.pushCalls as).pushEvents bs).setShift cs :=
      ⟨_, _, _, transmit_eq p n s⟩
    rw [hT] at hr
    exact ringAfter_congr hr ⟨rfl, rfl, rfl, rfl⟩ ⟨rfl, rfl, rfl⟩

/-- A send leaves the ring whole. -/
theorem sent_ready {ps c s t} (h : Sent ps c s t) :
    t.trkEn = true → t.ringWhole := by
  obtain ⟨e, r⟩ := h
  intro he
  have : s.trkEn = true := by rw [e] at he; exact he
  unfold ringAfter at r
  rw [if_pos this] at r
  exact r.2.1

/-- One send after another. -/
theorem sent_trans {ps qs c d s t u} (h1 : Sent ps c s t) (h2 : Sent qs d t u) :
    Sent (ps ++ qs) d s u := by
  obtain ⟨e1, r1⟩ := h1
  obtain ⟨e2, r2⟩ := h2
  have c1 : t.chainLen = s.chainLen := by rw [e1]
  have c2 : u.chainLen = t.chainLen := by rw [e2]
  have k1 : t.trkEn = s.trkEn := by rw [e1]
  refine ⟨?_, ringAfter_append r1 r2 c1 (c2.trans c1) k1⟩
  have hc : callsOf t qs = callsOf s qs := by
    rw [e1]; rfl
  have hsh : t.sh = chainAfter ps s.sh := by rw [e1]
  have htr : t.trace = s.trace ++ wireOf ps := by rw [e1]
  have hpc : t.pinCalls = s.pinCalls ++ callsOf s ps := by rw [e1]
  rw [e2, hc, hsh, htr, hpc, chainAfter_append]
  rw [e1]
  simp [wireOf, callsOf]

/-- A send without auto-update completes, in either state of the update cycle, and what it leaves. -/
theorem sendRepeated_manual {p : Packet} {n : Nat} {s : State} (hr : s.sendReady) (hn : n ≠ 0) (ha : s.autoUpdate = false) :
    ∃ t, sendRepeated p n s = .next t ∧ Sent (List.replicate n p) ((s.sentCount + n) % 2 ^ s.cfg.countW) s t := by
  obtain ⟨-, h2, h3, h4⟩ := hr
  obtain ⟨t, ht, hs⟩ := sendBody_sent (p := p) h3 h4 hn
  exact ⟨t, by simp [sendRepeated, h2, hn, ha, ht], hs⟩

/-- A send under auto-update completes from Idle, and what it leaves. -/
theorem sendRepeated_auto {p : Packet} {n : Nat} {s : State} (hr : s.sendReady) (hn : n ≠ 0) (ha : s.autoUpdate = true)
    (hu : s.updState = .idle) :
    ∃ t, sendRepeated p n s = .next t ∧ ringAfter (List.replicate n p) s t ∧
     t = { s with sentCount := n % 2 ^ s.cfg.countW, head := t.head, buf := t.buf,
                       trace := s.trace ++ wireOf (List.replicate n p)
                         ++ (if 0 < n % 2 ^ s.cfg.countW then [.latch] else []),
                       pinCalls := s.pinCalls ++ callsOf s (List.replicate n p)
                         ++ (if 0 < n % 2 ^ s.cfg.countW then latchCalls s else []),
                       sh := chainAfter (List.replicate n p) s.sh,
                       out := if 0 < n % 2 ^ s.cfg.countW then chainAfter (List.replicate n p) s.sh else s.out } := by
  obtain ⟨-, h2, h3, h4⟩ := hr
  obtain ⟨t, ht, e, r⟩ := sendBody_sent (p := p) (s := (s.setUpd .updating).setCount 0) h3 h4 hn
  have hup : t.updState = .updating := by rw [e]; rfl
  refine ⟨_, by simp only [sendRepeated, h2, hn, ha, openCycle_idle hu, andThen_next, ht, closeCycle_updating hup, if_true, if_false]; rfl, ?_, ?_⟩
  · refine ringAfter_congr r ⟨rfl, rfl, rfl, rfl⟩ ?_
    refine ⟨?_, ?_, ?_⟩ <;> (split <;> rfl)
  · rw [e]
    simp only [setCount_sentCount, setCount_cfg, setUpd_cfg, Nat.zero_add]
    have hs : s = { s with updState := .idle } := by rw [← hu]
    split
    · rw [hs]; simp [State.setUpd, latchPulse, latchCalls, State.setOut, State.pushEvents, State.pushCalls, State.setCount]; rfl
    · rw [hs]; simp [State.setUpd, State.setCount]; rfl

/-- The sends of a list without auto-update complete, and what they leave. -/
theorem sendEach_sent {ps : List Packet} {s : State} (hr : s.sendReady) (ha : s.autoUpdate = false) (hp : ps ≠ []) :
    ∃ t, sendEach ps s = .next t ∧ Sent ps ((s.sentCount + ps.length) % 2 ^ s.cfg.countW) s t := by
  induction ps generalizing s with
  | nil => exact absurd rfl hp
  | cons p ps ih =>
    obtain ⟨t, ht, hs⟩ := sendRepeated_manual (p := p) hr one_ne_zero ha
    have hrep : List.replicate 1 p = [p] := rfl
    rw [hrep] at hs
    by_cases hps : ps = []
    · subst hps
      exact ⟨t, by simp [sendEach, ht], hs⟩
    · have e := hs.1
      have hrt : t.sendReady := by
        refine ⟨by rw [e]; exact hr.1, by rw [e]; exact hr.2.1, by rw [e]; exact hr.2.2.1, sent_ready hs⟩
      obtain ⟨u, hu, hs'⟩ := ih (s := t) hrt (by rw [e]; exact ha) hps
      refine ⟨u, by simp [sendEach, ht, hu], ?_⟩
      have := sent_trans hs hs'
      have hc : (t.sentCount + ps.length) % 2 ^ t.cfg.countW = (s.sentCount + (p :: ps).length) % 2 ^ s.cfg.countW := by
        rw [e]; simp only [Nat.mod_add_mod, List.length_cons]; congr 1; omega
      rw [hc] at this
      exact this

/-- A batch completes from Idle, and what it leaves. -/
theorem sendBatch_sent {ps : List Packet} {s : State} (hr : s.sendReady) (hu : s.updState = .idle) (hp : ps ≠ []) :
    ∃ t, sendBatch ps s = .next t
        ∧ ringAfter ps s t
        ∧ t = { s with sentCount := ps.length % 2 ^ s.cfg.countW, head := t.head, buf := t.buf,
                       trace := s.trace ++ wireOf ps
                         ++ (if 0 < ps.length % 2 ^ s.cfg.countW then [.latch] else []),
                       pinCalls := s.pinCalls ++ callsOf s ps
                         ++ (if 0 < ps.length % 2 ^ s.cfg.countW then latchCalls s else []),
                       sh := chainAfter ps s.sh,
                       out := if 0 < ps.length % 2 ^ s.cfg.countW then chainAfter ps s.sh else s.out } := by
  obtain ⟨t, ht, e, r⟩ := sendEach_sent (ps := ps) (s := ((s.setAuto false).setUpd .updating).setCount 0)
    ⟨hr.1, hr.2.1, hr.2.2.1, hr.2.2.2⟩ rfl hp
  have hup : t.updState = .updating := by rw [e]; rfl
  refine ⟨_, by simp only [sendBatch, openCycle_idle (s := s.setAuto false) hu, andThen_next, ht, closeCycle_updating hup]; rfl, ?_, ?_⟩
  · refine ringAfter_congr r ⟨rfl, rfl, rfl, rfl⟩ ?_
    refine ⟨?_, ?_, ?_⟩ <;> (split <;> rfl)
  · rw [e]
    simp only [setCount_sentCount, setCount_cfg, setUpd_cfg, setAuto_cfg, Nat.zero_add]
    have hs : s = { s with updState := .idle } := by rw [← hu]
    split
    · rw [hs]; simp [State.setUpd, latchPulse, latchCalls, State.setOut, State.pushEvents, State.pushCalls, State.setCount, State.setAuto]; rfl
    · rw [hs]; simp [State.setUpd, State.setCount, State.setAuto]; rfl

end Sys2Proof.Machine
end

