-- ==== Sys2Proof/Tests/Slice0.lean ====
section
/-! SUPPORT. Tests: the well-formedness checks refuse ill-formed terms, words written out from the spec's encodings decode, single steps give what 95_test_vectors.md says, and every statement's hypotheses can be met. -/

namespace Sys2Proof.Tests
open Sys2Proof.Machine

/-! ## Small states -/

/-- A chain of three chips right after NEW_CHAIN(3, 0), the chips' registers known. -/
def base : State :=
  { State.powerOn Config.standard with
    constructed := true, chainLen := 3, sh := [0xA0, 0xA1, 0xA2], out := [0xB0, 0xB1, 0xB2] }

/-- The same after SETUP3(1, 2, 3). -/
def ready : State := { base with setupDone := true, pinData := ⟨1⟩, pinClock := ⟨2⟩, pinLatch := ⟨3⟩ }

/-- The same with tracking just enabled: the head at the sentinel, slots of some contents. -/
def fresh : State :=
  { ready with trkAlloc := true, trkEn := true, head := 3, buf := [(0, 0xE0), (1, 0xE1), (2, 0xE2)] }

/-- The same after the sends A = 1, B = 2, C = 3. -/
def filled : State := { fresh with head := 0, buf := [(0, 3), (1, 2), (2, 1)], sh := [3, 2, 1], sentCount := 3 }

/-- The same after a fourth send, D = 4: the head has wrapped. -/
def wrapped : State := { filled with head := 2, buf := [(0, 3), (1, 2), (2, 4)], sh := [4, 3, 2] }

/-- A chain of one chip, tracking on. -/
def single : State := { fresh with chainLen := 1, head := 1, buf := [(0, 0xE0)], sh := [0xA0], out := [0xB0] }

/-- The chain of three chips with storage for `k` packets only. -/
def capped (k : Nat) : State := { base with cfg := { Config.standard with capacity := k } }

/-- The next state of an outcome, if it is one. -/
def after {α : Type} (f : State → α) : Host.Outcome State Fault Refusal → Option α
  | .next s => some (f s)
  | .fault _ => none
  | .refused _ => none

/-- The reason of a refusal, if it is one. -/
def why : Host.Outcome State Fault Refusal → Option Refusal
  | .next _ => none
  | .fault _ => none
  | .refused r => some r

/-- The events of bits written out, first first. -/
def shifts (bs : List Nat) : List WireEvent := bs.map fun b => .shift (b == 1)

/-! ## WellFormed smoke: each check refuses a term -/

theorem test_wf_buildPwm : Instr.wf Config.standard (.buildPwm 65536 0 0) = false
    ∧ Instr.wf Config.standard (.buildPwm 0 65536 0) = false
    ∧ Instr.wf Config.standard (.buildPwm 0 0 65536) = false
    ∧ Instr.wf Config.standard (.buildPwm 65535 65535 65535) = true := by decide
theorem test_wf_buildCorr : Instr.wf Config.standard (.buildCorr 65536 0 0 0) = false
    ∧ Instr.wf Config.standard (.buildCorr 0 65536 0 0) = false
    ∧ Instr.wf Config.standard (.buildCorr 0 0 65536 0) = false
    ∧ Instr.wf Config.standard (.buildCorr 0 0 0 65536) = false := by decide
theorem test_wf_getState : Instr.wf Config.standard (.getState 256) = false
    ∧ Instr.wf Config.standard (.getState 255) = true
    ∧ Instr.wf { Config.standard with idxW := .w16 } (.getState 256) = true := by decide
theorem test_wf_restoreState (ps : List Packet) (h : ps.length = 256) :
    Instr.wf Config.standard (.restoreState ps) = false :=
  decide_eq_false (by rw [h]; decide)
theorem test_wf_newChain : Instr.wf Config.standard (.newChain 256 true) = false := by decide
theorem test_wf_transmit : Instr.wf Config.standard (.transmit 0 256) = false := by decide
theorem test_wf_sendPacket : Instr.wf Config.standard (.sendPacket 0 256) = false := by decide
theorem test_wf_sendPackets (ps : List Packet) (h : ps.length = 256) :
    Instr.wf Config.standard (.sendPackets ps) = false :=
  decide_eq_false (by rw [h]; decide)
theorem test_wf_sendPwm : Instr.wf Config.standard (.sendPwm 65536 0 0) = false
    ∧ Instr.wf Config.standard (.sendPwm 0 65536 0) = false
    ∧ Instr.wf Config.standard (.sendPwm 0 0 65536) = false := by decide
theorem test_wf_sendCorr : Instr.wf Config.standard (.sendCorr 65536 0 0 0) = false
    ∧ Instr.wf Config.standard (.sendCorr 0 65536 0 0) = false
    ∧ Instr.wf Config.standard (.sendCorr 0 0 65536 0) = false
    ∧ Instr.wf Config.standard (.sendCorr 0 0 0 65536) = false := by decide

/-! ## Words written out: the packet formats from the tables of 30_encoding.md R60 and R63, the select codes in
binary from R74, the operands as log 6 lays them out -/

theorem test_decode_pktPwm : decode Config.standard (.packet 0b1_0_0000000011_0000000010_0000000001#32)
    = .ok (.pktPwm 1 3 2 1) := by decide
theorem test_decode_pktCorr : decode Config.standard (.packet 0b0_1_1_0_1_0011001_101_0110010_1_10_1100100#32)
    = .ok (.pktCorr 0 1 0 1 25 5 50 1 2 100) := by decide
theorem test_decode_buildPwm : decode Config.standard (.command [0b00000, 0x01, 0x04, 2, 0, 3, 0] [])
    = .ok (.buildPwm 1025 2 3) := by decide
theorem test_decode_buildCorr : decode Config.standard (.command [0b00001, 100, 0, 50, 0, 25, 0, 2, 0] [])
    = .ok (.buildCorr 100 50 25 2) := by decide
theorem test_decode_rawValue : decode Config.standard (.command [0b00010, 0x01, 0x08, 0x30, 0x00] [])
    = .ok (.rawValue 0x00300801) := by decide
theorem test_decode_modeOf : decode Config.standard (.command [0b00011, 0x64, 0xC9, 0x90, 0x41] [])
    = .ok (.modeOf 0x4190C964) := by decide
theorem test_decode_pwmView : decode Config.standard (.command [0b00100, 0x64, 0xC9, 0x90, 0x41] [])
    = .ok (.pwmView 0x4190C964) := by decide
theorem test_decode_corrView : decode Config.standard (.command [0b00101, 0x64, 0xC9, 0x90, 0x41] [])
    = .ok (.corrView 0x4190C964) := by decide
theorem test_decode_decodeView : decode Config.standard (.command [0b00110, 0x64, 0xC9, 0x90, 0x41] [])
    = .ok (.decodeView 0x4190C964) := by decide
theorem test_decode_setTracking : decode Config.standard (.command [0b01000, 1] []) = .ok (.setTracking true) := by decide
theorem test_decode_trkWrite : decode Config.standard (.command [0b01001, 0xFF, 0x03, 0x00, 0x00] [])
    = .ok (.trkWrite 0x000003FF) := by decide
theorem test_decode_getState : decode Config.standard (.command [0b01010, 2] []) = .ok (.getState 2)
    ∧ decode { Config.standard with idxW := .w16 } (.command [0b01010, 2, 1] []) = .ok (.getState 258) := by decide
theorem test_decode_saveState : decode Config.standard (.command [0b01011] []) = .ok .saveState := by decide
theorem test_decode_restoreState :
    decode Config.standard (.command [0b01100, 2, 0x01, 0x08, 0x30, 0x00, 0xFF, 0x03, 0x00, 0x00] [])
    = .ok (.restoreState [0x00300801, 0x000003FF]) := by decide
theorem test_decode_newChain : decode Config.standard (.command [0b10000, 3, 1] []) = .ok (.newChain 3 true) := by decide
theorem test_decode_setup3 : decode Config.standard (.command [0b10001] [⟨1⟩, ⟨2⟩, ⟨70000⟩])
    = .ok (.setup3 ⟨1⟩ ⟨2⟩ ⟨70000⟩) := by decide
theorem test_decode_setup4 : decode Config.standard (.command [0b10010] [⟨1⟩, ⟨2⟩, ⟨3⟩, ⟨4⟩])
    = .ok (.setup4 ⟨1⟩ ⟨2⟩ ⟨3⟩ ⟨4⟩) := by decide
theorem test_decode_getAuto : decode Config.standard (.command [0b10011] []) = .ok .getAuto := by decide
theorem test_decode_setAuto : decode Config.standard (.command [0b10100, 0] []) = .ok (.setAuto false) := by decide
theorem test_decode_setEnabled : decode Config.standard (.command [0b10101, 1] []) = .ok (.setEnabled true) := by decide
theorem test_decode_beginUpdate : decode Config.standard (.command [0b10110] []) = .ok .beginUpdate := by decide
theorem test_decode_endUpdate : decode Config.standard (.command [0b10111] []) = .ok .endUpdate := by decide
theorem test_decode_transmit : decode Config.standard (.command [0b11000, 0x01, 0x08, 0x30, 0x00, 2] [])
    = .ok (.transmit 0x00300801 2) := by decide
theorem test_decode_sendPacket : decode Config.standard (.command [0b11001, 0x01, 0x08, 0x30, 0x00, 255] [])
    = .ok (.sendPacket 0x00300801 255) := by decide
theorem test_decode_sendPackets : decode Config.standard (.command [0b11010, 1, 0x01, 0x08, 0x30, 0x00] [])
    = .ok (.sendPackets [0x00300801]) ∧ decode Config.standard (.command [0b11010, 0] []) = .ok (.sendPackets []) := by decide
theorem test_decode_sendAll : decode Config.standard (.command [0b11011, 0x01, 0x08, 0x30, 0x00] [])
    = .ok (.sendAll 0x00300801) := by decide
theorem test_decode_sendPwm : decode Config.standard (.command [0b11100, 0, 2, 0, 1, 128, 0] [])
    = .ok (.sendPwm 512 256 128) := by decide
theorem test_decode_sendCorr : decode Config.standard (.command [0b11101, 100, 0, 50, 0, 25, 0, 2, 0] [])
    = .ok (.sendCorr 100 50 25 2) := by decide
theorem test_decode_reserved : decode Config.standard (.command [0b00111] []) = .error (.reservedOp 0x07)
    ∧ decode Config.standard (.command [0b11111, 1, 2] []) = .error (.reservedOp 0x1F) := by decide
theorem test_decode_truncated : decode Config.standard (.command [] []) = .error .truncated
    ∧ decode Config.standard (.command [0b00010, 1, 2, 3] []) = .error .truncated
    ∧ decode Config.standard (.command [0b10010] [⟨1⟩, ⟨2⟩, ⟨3⟩]) = .error .truncated
    ∧ decode Config.standard (.command [0b11010, 2, 1, 2, 3, 4] []) = .error .truncated := by decide
theorem test_table_words : decodeTableWord 8 0x0A = some (.getState 0)
    ∧ decodeTableWord 32 0x4190C964 = some (.pktCorr 0 0 0 0 25 0 50 0 2 100)
    ∧ decodeTableWord 8 0x07 = none := by decide

/-! ## Single steps, from the tables of 95_test_vectors.md part 2 -/

theorem test_pktPwm : after State.response (exec (.pktPwm 1 0x300 0 0x200) base)
    = some ⟨.ok, .view (.pwm ⟨512, 0, 768⟩)⟩ := by decide
theorem test_pktCorr : after State.response (exec (.pktCorr 0 0 0 1 0 7 0 1 0 0) base)
    = some ⟨.ok, .view (.corr ⟨0, 0, 0, 0, 0, 0⟩)⟩ := by decide
theorem test_buildPwm : after State.response (exec (.buildPwm 1 2 3) base) = some ⟨.ok, .packet 0x00300801⟩ := by decide
theorem test_buildPwm_truncates : after State.response (exec (.buildPwm 1025 2047 4095) base)
    = some ⟨.ok, .packet 0x3FFFFC01⟩ := by decide
theorem test_buildCorr : after State.response (exec (.buildCorr 100 50 25 2) base)
    = some ⟨.ok, .packet 0x4190C964⟩ := by decide
theorem test_buildCorr_truncates : after State.response (exec (.buildCorr 128 255 129 4) base)
    = some ⟨.ok, .packet 0x4011FC00⟩ := by decide
theorem test_rawValue : after State.response (exec (.rawValue 0xB0000200) base)
    = some ⟨.ok, .raw 0xB0000200⟩ := by decide
theorem test_modeOf : after State.response (exec (.modeOf 0x80000000) base) = some ⟨.ok, .mode 0⟩ := by decide
theorem test_modeOf_correction : after State.response (exec (.modeOf 0x7FFFFFFF) base) = some ⟨.ok, .mode 1⟩ := by decide
theorem test_pwmView : after State.response (exec (.pwmView 0x4190C964) base)
    = some ⟨.ok, .pwmView ⟨356, 50, 25⟩⟩ := by decide
theorem test_corrView : after State.response (exec (.corrView 0xB0000200) base)
    = some ⟨.ok, .corrView ⟨0, 0, 0, 0, 1, 1⟩⟩ := by decide
theorem test_decode : after State.response (exec (.decodeView 0xFFFFFFFF) base)
    = some ⟨.ok, .view (.corr ⟨127, 127, 127, 3, 1, 1⟩)⟩ := by decide
theorem test_decode_ignores_bit31 : after State.response (exec (.decodeView 0xB0000200) base)
    = some ⟨.ok, .view (.pwm ⟨512, 0, 768⟩)⟩ := by decide
theorem test_setTracking_fails : after (fun t => (t.response, t.trkAlloc, t.trkEn))
    (exec (.setTracking true) (capped 2))
    = some (⟨.enableFailed, .bool false⟩, false, false) := by decide
theorem test_setTracking_keeps : after (fun t => (t.trkEn, t.head, t.buf))
    (exec (.setTracking true) { filled with trkEn := false }) = some (true, 0, filled.buf) := by decide
theorem test_trkWrite_wraps : after (fun t => (t.head, t.buf)) (exec (.trkWrite 4) filled)
    = some (2, [(0, 3), (1, 2), (2, 4)]) := by decide
theorem test_trkWrite_single : after (fun t => (t.head, t.buf)) (exec (.trkWrite 7) single)
    = some (0, [(0, 7)]) := by decide
theorem test_getState_far : after State.response (exec (.getState 2) wrapped) = some ⟨.ok, .packet 2⟩ := by decide
theorem test_getState_out_of_range : after State.response (exec (.getState 3) wrapped)
    = some ⟨.notAvailable, .nothing⟩ := by decide
theorem test_phys_not_truncated : phys { base with chainLen := 255, head := 200 } 100 = 45 := by decide +kernel
theorem test_saveState : after State.response (exec .saveState wrapped) = some ⟨.ok, .seq [4, 3, 2]⟩ := by decide
theorem test_saveState_sentinel : after State.response (exec .saveState fresh) = some ⟨.empty, .seq []⟩ := by decide
theorem test_restoreState : after (fun t => (t.head, t.buf, t.out, latches t)) (exec (.restoreState [7, 8, 9]) wrapped)
    = some (2, [(0, 8), (1, 9), (2, 7)], [7, 8, 9], 1) := by decide +kernel
theorem test_restoreState_mis_sized : why (exec (.restoreState [3, 2]) filled) = some .misSizedSequence := by decide
theorem test_newChain : after (fun t => (t.chainLen, t.autoUpdate, t.trkAlloc, t.buf)) (exec (.newChain 255 true) filled)
    = some (255, true, false, []) := by decide
theorem test_newChain_zero : why (exec (.newChain 0 true) (State.powerOn Config.standard)) = some .zeroLength := by decide
theorem test_setup3 : after (fun t => (t.hasNoe, t.pinLatch, t.pinCalls.length))
    (exec (.setup3 ⟨5⟩ ⟨6⟩ ⟨7⟩) { ready with hasNoe := true }) = some (false, ⟨7⟩, 3) := by decide
theorem test_setup4 : after (fun t => (t.hasNoe, t.pinNoe, t.setupDone, t.trace)) (exec (.setup4 ⟨1⟩ ⟨2⟩ ⟨3⟩ ⟨4⟩) base)
    = some (true, ⟨4⟩, true, []) := by decide
theorem test_getAuto : after State.response (exec .getAuto { base with autoUpdate := true })
    = some ⟨.ok, .bool true⟩ := by decide
theorem test_setAuto : after State.autoUpdate (exec (.setAuto true) base) = some true := by decide
theorem test_setEnabled : after (fun t => (t.trace, pinLevel t.pinCalls ⟨9⟩))
    (exec (.setEnabled true) { ready with hasNoe := true, pinNoe := ⟨9⟩ })
    = some ([.notEnable false], some false) := by decide
theorem test_setEnabled_no_line : after State.trace (exec (.setEnabled false) ready) = some [] := by decide
theorem test_beginUpdate : after (fun t => (t.updState, t.sentCount)) (exec .beginUpdate filled)
    = some (.updating, 0) := by decide
theorem test_beginUpdate_nested : why (exec .beginUpdate { base with updState := .updating }) = some .nestedUpdate := by
  decide
theorem test_endUpdate : after (fun t => (t.response, t.updState, t.sentCount, t.trace, t.out))
    (exec .endUpdate { ready with updState := .updating, sentCount := 2 })
    = some (⟨.ok, .count 2⟩, .idle, 2, [.latch], [0xA0, 0xA1, 0xA2]) := by decide
theorem test_endUpdate_empty : after (fun t => (t.response, t.trace)) (exec .endUpdate { base with updState := .updating })
    = some (⟨.ok, .count 0⟩, []) := by decide
theorem test_transmit : after (fun t => (t.trace, t.sh, t.sentCount)) (exec (.transmit 0x00300801 1) ready)
    = some (shifts [0,0,0,0, 0,0,0,0, 0,0,1,1, 0,0,0,0, 0,0,0,0, 1,0,0,0, 0,0,0,0, 0,0,0,1], [0x00300801, 0xA0, 0xA1], 0) := by decide
theorem test_sendPacket : after (fun t => (t.head, t.buf, t.sentCount, latches t, t.trace.length))
    (exec (.sendPacket 9 2) { fresh with autoUpdate := true })
    = some (1, [(0, 0xE0), (1, 9), (2, 9)], 2, 1, 65) := by decide
theorem test_sendPacket_count_wraps : after (fun t => (t.sentCount, latches t))
    (exec (.sendPacket 9 16) { ready with autoUpdate := true, cfg := { Config.standard with countW := 4 } })
    = some (0, 0) := by decide +kernel
theorem test_sendPackets : after (fun t => (t.head, t.buf, t.sentCount, latches t, t.autoUpdate))
    (exec (.sendPackets [11, 12, 13, 14, 15]) filled)
    = some (1, [(0, 13), (1, 15), (2, 14)], 5, 1, false) := by decide +kernel
theorem test_sendPackets_empty : after (fun t => (t.sentCount, t.trace, t.updState)) (exec (.sendPackets []) base)
    = some (0, [], .idle) := by decide
theorem test_sendAll : after (fun t => (t.head, t.buf, t.sentCount, t.sh)) (exec (.sendAll 9) fresh)
    = some (0, [(0, 9), (1, 9), (2, 9)], 3, [9, 9, 9]) := by decide
theorem test_sendPwm : after (fun t => (t.sh, t.buf)) (exec (.sendPwm 1025 2047 4095) fresh)
    = some ([0x3FFFFC01, 0xA0, 0xA1], [(0, 0xE0), (1, 0xE1), (2, 0x3FFFFC01)]) := by decide
theorem test_sendCorr : after (fun t => (t.sh, t.out)) (exec (.sendCorr 100 50 25 2) { ready with autoUpdate := true })
    = some ([0x4190C964, 0xA0, 0xA1], [0x4190C964, 0xA0, 0xA1]) := by decide
theorem test_before_reset : why (exec .getAuto (State.powerOn Config.standard)) = some .beforeReset
    ∧ why (exec (.decodeView 0) (State.powerOn Config.standard)) = some .beforeReset := by decide
theorem test_port_refuses_internal :
    why (step { ready with port := [.operation (.command [0b01001, 1, 0, 0, 0] [])] }) = some .internalOp := by decide
theorem test_withFetchWord : after State.response (step (State.reset.withFetchWord 8 0x13))
    = some ⟨.ok, .bool true⟩ := by decide
theorem test_result_codes : [ResultCode.ok, .notAvailable, .enableFailed, .empty].map ResultCode.number = [0, 1, 2, 3] := by
  decide

/-! ## The hypotheses of the statements can be met: one witness for each statement that has hypotheses, each of its
clauses at a boundary of its range -/

/-- The outcome is a next state. -/
def completes (o : Host.Outcome State Fault Refusal) : Bool := (after (fun _ => true) o).isSome

/-- With tracking on and the ring filled, auto-update on. -/
def autoFilled : State := { filled with autoUpdate := true }

theorem witness_PacketWordIsDecoded : ∃ (s : State) (w : Packet) (rest : List Stimulus),
    s.port = .operation (.packet w) :: rest :=
  ⟨{ base with port := [.operation (.packet 0x4190C964)] }, 0x4190C964, [], rfl⟩
theorem witness_BuildPwmAssemblesFields : base.constructed = true := rfl
theorem witness_BuildCorrAssemblesFields : base.constructed = true := rfl
theorem witness_RawValueAndModeOf : base.constructed = true := rfl
theorem witness_ViewsAreSlices : base.constructed = true := rfl
theorem witness_DecodeSelectsView : base.constructed = true := rfl
theorem witness_PacketRowsAnswerTheirFields : base.constructed = true := rfl
theorem witness_PwmRoundTrip : base.constructed = true := rfl
theorem witness_CorrRoundTrip : base.constructed = true := rfl
theorem witness_FormatsAreIsolated : base.constructed = true := rfl
theorem witness_CanonicalPackets : base.constructed = true := rfl
theorem witness_ReEncoding : base.constructed = true := rfl
theorem witness_ViewsOverlap : base.constructed = true := rfl
theorem witness_CodecIsPure : isCodec (.decodeView 0) = true ∧ isCodec (.pktCorr 0 0 0 0 0 0 0 0 0 0) = true
    ∧ base.constructed = true := by decide
theorem witness_SetTrackingRule :
    ((capped 3).constructed = true ∧ (capped 3).trkAlloc = false ∧ (capped 3).chainLen ≤ (capped 3).cfg.capacity)
    ∧ ((capped 2).constructed = true ∧ (capped 2).trkAlloc = false ∧ (capped 2).cfg.capacity < (capped 2).chainLen)
    ∧ (filled.constructed = true ∧ filled.trkAlloc = true) := by decide
theorem witness_AllocationHappensOnce :
    (wrapped.constructed = true ∧ wrapped.trkAlloc = true)
    ∧ ((capped 2).constructed = true ∧ (capped 2).trkAlloc = false
        ∧ (capped 2).cfg.capacity < (capped 2).chainLen) := by decide
theorem witness_TrkWriteRule :
    (filled.constructed = true ∧ filled.trkEn = true ∧ 1 ≤ filled.chainLen ∧ filled.ringWhole ∧ filled.head = 0)
    ∧ (single.trkEn = true ∧ 1 ≤ single.chainLen ∧ single.ringWhole ∧ single.head = single.chainLen)
    ∧ (ready.constructed = true ∧ ready.trkEn = false) := by decide
theorem witness_GetStateRule :
    (wrapped.constructed = true ∧ 2 < wrapped.chainLen ∧ wrapped.trkEn = true ∧ wrapped.ringWhole)
    ∧ (wrapped.chainLen ≤ 3) ∧ ready.constructed = true ∧ ready.trkEn = false := by decide
theorem witness_SaveStateRule :
    (filled.constructed = true ∧ filled.trkEn = true ∧ filled.head ≠ filled.chainLen ∧ filled.ringWhole)
    ∧ (fresh.constructed = true ∧ fresh.head = fresh.chainLen)
    ∧ ready.constructed = true ∧ ready.trkEn = false := by decide
theorem witness_SaveAndGetAgree :
    exec .saveState wrapped = .next { wrapped with response := ⟨.ok, .seq [4, 3, 2]⟩ } ∧ 2 < wrapped.chainLen :=
  ⟨by rfl, by decide⟩
theorem witness_HeadLaw :
    (fresh.constructed = true ∧ fresh.trkEn = true ∧ 1 ≤ fresh.chainLen ∧ fresh.ringWhole ∧ fresh.head = fresh.chainLen)
    ∧ (single.constructed = true ∧ single.trkEn = true ∧ 1 ≤ single.chainLen ∧ single.ringWhole
        ∧ single.head = single.chainLen) := by decide
theorem witness_HeadNeverReturnsToSentinel :
    filled.wf ∧ filled.trkAlloc = true ∧ filled.head < filled.chainLen
    ∧ (∀ n b, Instr.sendAll 9 ≠ .newChain n b) ∧ completes (exec (.sendAll 9) filled) = true :=
  ⟨by decide, by decide, by decide, (by intro n b h; cases h), by decide +kernel⟩
theorem witness_RestoreStateRule :
    filled.constructed = true ∧ ([1, 2] : List Packet).length ≠ filled.chainLen
    ∧ ([1, 2, 3] : List Packet).length = filled.chainLen ∧ filled.sendReady ∧ filled.updState = .idle
    ∧ filled.chainLen < 2 ^ filled.cfg.countW := by decide
theorem witness_RestoreThenSaveIsIdentity :
    fresh.sendReady ∧ fresh.trkEn = true ∧ fresh.updState = .idle ∧ ([1, 2, 3] : List Packet).length = fresh.chainLen := by
  decide
theorem witness_SaveAfterSends :
    autoFilled.sendReady ∧ autoFilled.trkEn = true ∧ (autoFilled.autoUpdate = true → autoFilled.updState = .idle)
    ∧ ([1, 2, 3] : List Packet).length = autoFilled.chainLen := by decide
theorem witness_BroadcastEquivalence :
    autoFilled.sendReady ∧ autoFilled.trkEn = true ∧ (autoFilled.autoUpdate = true → autoFilled.updState = .idle)
    ∧ autoFilled.chainLen < 2 ^ autoFilled.cfg.countW ∧ autoFilled.autoUpdate = true := by decide
theorem witness_RingMirrorsChain :
    fresh.wf ∧ fresh.trkEn = true ∧ (∀ i ∈ [Instr.sendPacket 5 1, .beginUpdate], keepsPairing i = true)
    ∧ completes (runAll [.sendPacket 5 1, .beginUpdate] fresh) = true :=
  ⟨by decide, by decide, by decide, by decide +kernel⟩
theorem witness_DisabledTrackerGoesStale :
    filled.sendReady ∧ filled.trkEn = true ∧ filled.trkAlloc = true
    ∧ (filled.autoUpdate = true → filled.updState = .idle) := by decide
theorem witness_NewChainResets : (1 : Nat) ≠ 0 ∧ (255 : Nat) ≠ 0 := by decide
theorem witness_Setup3Rule : base.constructed = true := rfl
theorem witness_Setup4Rule : ready.constructed = true := rfl
theorem witness_AutoUpdateFlag : base.constructed = true := rfl
theorem witness_SetEnabledRule :
    ({ ready with hasNoe := true }.constructed = true ∧ { ready with hasNoe := true }.hasNoe = true)
    ∧ base.constructed = true ∧ base.hasNoe = false := by decide
theorem witness_BeginUpdateRule :
    base.constructed = true ∧ base.updState = .idle ∧ { base with updState := UpdState.updating }.constructed = true := by
  decide
theorem witness_EndUpdateRule :
    ({ ready with updState := .updating, sentCount := 1 }.constructed = true
      ∧ { ready with updState := .updating, sentCount := 1 }.updState = .updating
      ∧ 0 < { ready with updState := .updating, sentCount := 1 }.sentCount)
    ∧ ({ ready with updState := .updating }.updState = .updating ∧ { ready with updState := .updating }.sentCount = 0)
    ∧ ready.constructed = true ∧ ready.updState = .idle := by decide
theorem witness_WireOrderIsMsbFirst : ready.constructed = true ∧ ready.setupDone = true
    ∧ (∀ x ∈ [((1 : Packet), 2), (2, 1)], 1 ≤ x.2)
    ∧ ([1, 1, 2] : List Packet) = [((1 : Packet), 2), (2, 1)].flatMap (fun x => List.replicate x.2 x.1) := by decide
theorem witness_FirstSentEndsFurthest :
    fresh.sendReady ∧ (fresh.autoUpdate = true → fresh.updState = .idle) ∧ fresh.sh.length = fresh.chainLen
    ∧ ([1, 2, 3] : List Packet).length = fresh.chainLen ∧ 2 < fresh.chainLen := by decide
theorem witness_TransmitRule : ready.constructed = true ∧ ready.setupDone = true ∧ 1 ≤ 1 := by decide
theorem witness_SendPacketRule :
    (base.constructed = true ∧ base.setupDone = false) ∧ (ready.constructed = true ∧ ready.setupDone = true)
    ∧ ({ autoFilled with updState := .updating }.setupDone = true ∧ (1 : Nat) ≠ 0
        ∧ { autoFilled with updState := .updating }.autoUpdate = true
        ∧ { autoFilled with updState := .updating }.updState = .updating)
    ∧ (single.sendReady ∧ single.autoUpdate = false)
    ∧ (autoFilled.sendReady ∧ autoFilled.autoUpdate = true ∧ autoFilled.updState = .idle) := by decide
theorem witness_SendPacketsRule :
    (base.constructed = true ∧ { base with updState := .updating }.updState = .updating)
    ∧ (base.constructed = true ∧ base.updState = .idle ∧ base.setupDone = false ∧ ([1] : List Packet) ≠ [])
    ∧ (filled.updState = .idle ∧ filled.sendReady ∧ ([1] : List Packet) ≠ []) := by decide
theorem witness_PseudoOperationsExpand : ([1, 2, 3] : List Packet).length = filled.chainLen ∧ filled.constructed = true := by
  decide
theorem witness_SendShorthandsComplete :
    (autoFilled.sendReady ∧ (autoFilled.autoUpdate = true → autoFilled.updState = .idle)
      ∧ autoFilled.chainLen < 2 ^ autoFilled.cfg.countW)
    ∧ ({ single with updState := .updating }.sendReady
      ∧ ({ single with updState := .updating }.autoUpdate = true → { single with updState := .updating }.updState = .idle)
      ∧ { single with updState := .updating }.chainLen < 2 ^ { single with updState := .updating }.cfg.countW) := by decide
theorem witness_LatchCounts :
    (autoFilled.sendReady ∧ autoFilled.autoUpdate = true ∧ autoFilled.updState = .idle)
    ∧ (filled.sendReady ∧ filled.autoUpdate = false ∧ filled.updState = .idle) ∧ (1 : Nat) ≠ 0
    ∧ ([1] : List Packet) ≠ [] ∧ ([1] : List Packet).length < 2 ^ filled.cfg.countW
    ∧ ([1, 2, 3] : List Packet).length = filled.chainLen ∧ filled.chainLen < 2 ^ filled.cfg.countW := by decide
theorem witness_UpdateCycleCountsAndLatchesOnce :
    fresh.sendReady ∧ fresh.autoUpdate = false ∧ fresh.updState = .idle
    ∧ ∀ x ∈ [((1 : Packet), 1), (2, 4)], x.2 ≠ 0 := by decide
theorem witness_RefusedExactlyAsListed :
    base.wf ∧ (State.powerOn Config.standard).wf ∧ wrapped.wf ∧ (autoFilled.setUpd .updating).wf :=
  ⟨by decide, by decide, by decide, by decide⟩
theorem witness_BeforeResetRefused :
    (State.powerOn Config.standard).constructed = false ∧ (∀ n b, Instr.getAuto ≠ .newChain n b)
    ∧ ∀ n b, Instr.modeOf 0 ≠ .newChain n b := ⟨rfl, (by intro n b h; cases h), (by intro n b h; cases h)⟩
theorem witness_PortRefusesReservedAndInternal :
    (∀ c ∈ [0x07, 0x0D, 0x0E, 0x0F, 0x1E, 0x1F],
      { base with port := [.operation (.command [BitVec.ofNat 8 c, 1] [])] }.port
        = .operation (.command (BitVec.ofNat 8 c :: [1]) []) :: [])
    ∧ decode base.cfg (.command [0x09, 1, 0, 0, 0] []) = .ok (.trkWrite 1) ∧ Instr.internal (.trkWrite 1) = true
    ∧ decode base.cfg (.command [0x18, 1, 0, 0, 0, 1] []) = .ok (.transmit 1 1) ∧ Instr.internal (.transmit 1 1) = true :=
  ⟨fun _ _ => rfl, by decide, rfl, by decide, rfl⟩
theorem witness_StepRunsPresentedOperation :
    decode base.cfg (.command [0x13] []) = .ok .getAuto ∧ Instr.internal .getAuto = false
    ∧ { base with port := [.operation (.command [0x13] [])] }.port = .operation (.command [0x13] []) :: [] := by decide
theorem witness_NothingPresentedNothingHappens : State.reset.port = [] := rfl
theorem witness_DecodeOfEncode :
    Instr.wf Config.standard (.buildCorr 65535 0 65535 0) = true
    ∧ Instr.wf Config.standard (.sendPacket 0xFFFFFFFF 255) = true
    ∧ Instr.wf Config.standard (.setup4 ⟨65536⟩ ⟨0⟩ ⟨1⟩ ⟨1⟩) = true
    ∧ Instr.wf { Config.standard with idxW := .w16 } (.newChain 65535 true) = true := by decide
theorem witness_StepKeepsLegalState :
    { base with port := [.operation (.command [0x08, 1] [])] }.wf
    ∧ completes (step { base with port := [.operation (.command [0x08, 1] [])] }) = true := ⟨by decide, by decide⟩
theorem witness_StepNeverFaults : { wrapped with port := [.operation (.command [0x0B] [])] }.wf := by decide
theorem witness_StepKeepsMemoryCanonical :
    Memory.wf wrapped.buf = true
    ∧ completes (step { wrapped with port := [.operation (.command [0x1B, 9, 0, 0, 0] [])] }) = true :=
  ⟨by decide, by decide +kernel⟩
theorem witness_ChainLengthIsFixed :
    completes (exec (.sendAll 9) filled) = true ∧ ∀ n b, Instr.sendAll 9 ≠ .newChain n b :=
  ⟨by decide +kernel, (by intro n b h; cases h)⟩
theorem witness_UpdateStateTransitions :
    completes (exec .beginUpdate base) = true
    ∧ completes (exec .endUpdate { base with updState := .updating }) = true
    ∧ completes (exec (.setAuto true) base) = true ∧ Instr.setAuto true ≠ .beginUpdate := by decide
theorem witness_RingWrittenOnlyBySends :
    keepsPairing (.sendPackets []) = true ∧ packetsOf filled.chainLen (.sendPackets []) = [] ∧ filled.wf
    ∧ completes (exec (.sendPackets []) filled) = true ∧ Instr.sendPackets [] ≠ .endUpdate
    ∧ keepsPairing .endUpdate = true ∧ packetsOf filled.chainLen .endUpdate = []
    ∧ { filled with updState := .updating }.wf
    ∧ completes (exec .endUpdate { filled with updState := .updating }) = true := by decide
theorem witness_HistoriesOnlyGrow :
    ((∀ n b, Instr.setEnabled true ≠ .newChain n b)
      ∧ completes (exec (.setEnabled true) { ready with hasNoe := true }) = true)
    ∧ ((∀ rest, { ready with port := [.chainPowerLoss] }.port ≠ .blockPowerLoss :: rest)
      ∧ (∀ p rest, { ready with port := [.chainPowerLoss] }.port ≠ .operation p :: rest)
      ∧ completes (step { ready with port := [.chainPowerLoss] }) = true)
    ∧ { ready with port := [.blockPowerLoss] }.port = .blockPowerLoss :: [] :=
  ⟨⟨(by intro n b h; cases h), by decide⟩, ⟨(by intro r h; cases h), (by intro p r h; cases h), by decide⟩, rfl⟩
theorem witness_LossOfPower :
    { filled with port := [.chainPowerLoss] }.port = .chainPowerLoss :: []
    ∧ { filled with port := [.blockPowerLoss] }.port = .blockPowerLoss :: [] := by decide

end Sys2Proof.Tests
end

/-! The head after any number of ring writes (10_state.md R33): a TRK_WRITE into a whole ring moves the head as `nextHead`
says and keeps the ring whole, so `m` of them leave `headAfter`, which from the sentinel is the closed form of the rule. -/

namespace Sys2Proof.Machine

/-- In a whole ring with tracking on, TRK_WRITE completes and is the ring write followed by its answer. -/
theorem exec_trkWrite_on {p : Packet} {s : State} (hc : s.constructed = true) (he : s.trkEn = true)
    (hl : 1 ≤ s.chainLen) (hw : s.ringWhole) :
    ∃ m, Memory.write s.buf (nextHead s) p = some m
      ∧ exec (.trkWrite p) s = .next ((s.setRing (nextHead s) m).respond (.success .nothing)) := by
  obtain ⟨m, hm, hwr⟩ := writeRing_on (p := p) he hl hw
  refine ⟨m, hm, ?_⟩
  calc exec (.trkWrite p) s
      = whenConstructed s (andThen (writeRing p s) (finish .nothing)) := rfl
    _ = .next ((s.setRing (nextHead s) m).respond (.success .nothing)) := by
        rw [whenConstructed_of hc, hwr, andThen_next, finish_eq]

/-- A write into an existing slot leaves a whole ring whole, its head at the slot written. -/
theorem ringWhole_setRing_nextHead {p : Packet} {s : State} {m : Memory} (hl : 1 ≤ s.chainLen) (hw : s.ringWhole)
    (hm : Memory.write s.buf (nextHead s) p = some m) : (s.setRing (nextHead s) m).ringWhole :=
  ⟨(Memory.write_keys hm).trans hw.1, (nextHead_lt hl hw.2).le⟩

/-- Any number of ring writes into a whole ring complete and move the head down once each. -/
theorem runAll_trkWrite_head {s : State} (ps : List Packet) (hc : s.constructed = true) (he : s.trkEn = true)
    (hl : 1 ≤ s.chainLen) (hw : s.ringWhole) :
    ∃ t, runAll (ps.map Instr.trkWrite) s = .next t ∧ t.head = headAfter s.chainLen s.head ps.length := by
  induction ps generalizing s with
  | nil => exact ⟨s, rfl, rfl⟩
  | cons p ps ih =>
    obtain ⟨m, hm, hex⟩ := exec_trkWrite_on (p := p) hc he hl hw
    obtain ⟨t, ht, hhead⟩ := ih (s := (s.setRing (nextHead s) m).respond (.success .nothing)) hc he hl
      (ringWhole_setRing_nextHead hl hw hm)
    refine ⟨t, ?_, ?_⟩
    · rw [List.map_cons, runAll, hex, andThen_next, ht]
    · rw [hhead, List.length_cons]
      exact headAfter_succ ps.length hl hw.2

/-- From the sentinel, `n` writes leave the head `n` below `l`, modulo `l`. Both forms are the residue that `n` completes
to a multiple of `l`. -/
theorem headAfter_sentinel {l : Nat} (n : Nat) (hl : 1 ≤ l) :
    headAfter l l n = if n = 0 then l else (l - n % l) % l := by
  have hsteps : l + n * (l - 1) + n = l * (n + 1) := by
    obtain ⟨k, rfl⟩ := Nat.exists_eq_add_of_le' hl
    rw [Nat.add_sub_cancel]
    ring
  have hclosed : l - n % l + n = l * (n / l + 1) := by
    have hr : n % l < l := Nat.mod_lt n hl
    have hdiv : l * (n / l) + n % l = n := Nat.div_add_mod n l
    rw [Nat.mul_succ]
    omega
  have hmod : l + n * (l - 1) ≡ l - n % l [MOD l] := by
    refine Nat.ModEq.add_right_cancel' n ?_
    rw [hsteps, hclosed]
    exact (Nat.mul_mod_right _ _).trans (Nat.mul_mod_right _ _).symm
  unfold headAfter
  rw [hmod]

/-- Settles O21: by induction on the writes the head is `headAfter`, and from the sentinel that is the closed form. -/
theorem headLaw : Obligations.HeadLaw := by
  unfold Obligations.HeadLaw
  intro s ps hc he hl hw hsent
  obtain ⟨t, ht, hhead⟩ := runAll_trkWrite_head ps hc he hl hw
  exact ⟨t, ht, by rw [hhead, hsent, headAfter_sentinel _ hl]⟩

end Sys2Proof.Machine

/-! The order of packets on the wire and in the chips (20_memory.md R44, R45): TRANSMITs put exactly their packets' bits on
the wire, and SEND_PACKETs move the chain on by exactly their packets, so each run is described by one list of packets. -/

namespace Sys2Proof.Machine

/-! ## The wire -/

/-- TRANSMIT puts its packets on the wire and into the chips, and leaves the count, the ring and the outputs alone. -/
theorem exec_transmit {p : Packet} {n : Nat} {s : State} (hc : s.constructed = true) :
    exec (.transmit p n) s = .next { s with
      trace := s.trace ++ wireOf (List.replicate n p), pinCalls := s.pinCalls ++ callsOf s (List.replicate n p),
      sh := chainAfter (List.replicate n p) s.sh, response := .done } := by
  calc exec (.transmit p n) s
      = whenConstructed s (finish .nothing (transmit p n s)) := rfl
    _ = .next ((transmit p n s).respond (.success .nothing)) := by rw [whenConstructed_of hc, finish_eq]
    _ = _ := by
        rw [transmit_eq, wireOf_replicate, callsOf_replicate, chainAfter, List.reverse_replicate]
        rfl

/-- What a next TRANSMIT needs of the one before: its events on the wire, and that the block still has a state. -/
theorem exec_transmit_trace (p : Packet) (n : Nat) {s : State} (hc : s.constructed = true) :
    ∃ t, exec (.transmit p n) s = .next t ∧ t.trace = s.trace ++ wireOf (List.replicate n p) ∧ t.constructed = true :=
  ⟨_, exec_transmit hc, rfl, hc⟩

theorem wireOf_cons (p : Packet) (ps : List Packet) :
    wireOf (p :: ps) = (packetBits p).map WireEvent.shift ++ wireOf ps := rfl

theorem wireOf_append (ps qs : List Packet) : wireOf (ps ++ qs) = wireOf ps ++ wireOf qs := List.flatMap_append

/-- Any list of TRANSMITs completes, and the wire carries their packets in order and nothing else. -/
theorem runAll_transmit_trace (xs : List (Packet × Nat)) {s : State} (hc : s.constructed = true) :
    ∃ t, runAll (xs.map fun x => .transmit x.1 x.2) s = .next t
      ∧ t.trace = s.trace ++ wireOf (xs.flatMap fun x => List.replicate x.2 x.1) := by
  induction xs generalizing s with
  | nil => exact ⟨s, rfl, (List.append_nil _).symm⟩
  | cons x xs ih =>
    obtain ⟨u, hu, hutrace, hcu⟩ := exec_transmit_trace x.1 x.2 hc
    obtain ⟨t, ht, htrace⟩ := ih hcu
    refine ⟨t, ?_, ?_⟩
    · rw [List.map_cons, runAll, hu, andThen_next, ht]
    · rw [htrace, hutrace, List.flatMap_cons, wireOf_append, List.append_assoc]

/-- 32 events per packet, with no framing and no gap marker. -/
theorem wireOf_length (ps : List Packet) : (wireOf ps).length = 32 * ps.length := by
  induction ps with
  | nil => rfl
  | cons p ps ih =>
    rw [wireOf_cons, List.length_append, List.length_map, packetBits_length, ih, List.length_cons]
    omega

/-- A packet's bits in wire order: bit 31 first, bit 0 last. -/
theorem packetBits_getElem? (p : Packet) {i : Nat} (hi : i < 32) : (packetBits p)[i]? = some (p.getLsbD (31 - i)) := by
  rw [packetBits, List.getElem?_map, List.getElem?_range hi, Option.map_some]

/-- Event `32 * k + i` of the wire is bit `31 - i` of packet `k`: each packet before it takes up 32 events. -/
theorem wireOf_getElem? {ps : List Packet} {k i : Nat} {p : Packet} (hk : ps[k]? = some p) (hi : i < 32) :
    (wireOf ps)[32 * k + i]? = some (.shift (p.getLsbD (31 - i))) := by
  induction ps generalizing k with
  | nil => cases hk
  | cons q qs ih =>
    have hlen : ((packetBits q).map WireEvent.shift).length = 32 := by rw [List.length_map, packetBits_length]
    rw [wireOf_cons]
    cases k with
    | zero =>
      obtain rfl : q = p := Option.some.inj hk
      rw [Nat.mul_zero, Nat.zero_add, List.getElem?_append_left (by omega), List.getElem?_map,
        packetBits_getElem? q hi, Option.map_some]
    | succ k =>
      rw [List.getElem?_append_right (by omega), hlen, show 32 * (k + 1) + i - 32 = 32 * k + i by omega]
      exact ih hk

/-- Settles O36: the TRANSMITs leave `wireOf` of their packets, whose length and entries are known. -/
theorem wireOrderIsMsbFirst : Obligations.WireOrderIsMsbFirst := by
  unfold Obligations.WireOrderIsMsbFirst
  rintro s xs ps hc - - rfl
  obtain ⟨t, ht, htrace⟩ := runAll_transmit_trace xs hc
  exact ⟨t, _, ht, htrace, wireOf_length _, fun _ _ hk _ hi => wireOf_getElem? hk hi⟩

/-! ## The chain -/

/-- A state in which a SEND_PACKET completes: ready to send, and Idle where the send opens a cycle of its own
(42_chain_controller.md R128). -/
abbrev State.canSend (s : State) : Prop := s.sendReady ∧ (s.autoUpdate = true → s.updState = .idle)

/-- With tracking on, sends leave the ring whole. -/
theorem ringWhole_of_ringAfter {ps : List Packet} {s t : State} (h : ringAfter ps s t) (he : s.trkEn = true) :
    t.ringWhole := by
  rw [ringAfter, if_pos he] at h
  obtain ⟨-, hwhole, -, -⟩ := h
  exact hwhole

/-- After sends within the frame that kept the ring whole, the next send completes too. -/
theorem canSend_of_sendFrame {ps : List Packet} {s t : State} (hs : s.canSend) (hf : sendFrame s t)
    (hr : ringAfter ps s t) : t.canSend := by
  obtain ⟨⟨hc, hd, hl, -⟩, hi⟩ := hs
  have hwhole : s.trkEn = true → t.ringWhole := ringWhole_of_ringAfter hr
  obtain ⟨hfields, -⟩ := hf
  rw [hfields] at hwhole ⊢
  exact ⟨⟨hc, hd, hl, hwhole⟩, hi⟩

/-- With and without auto-update a send completes, and the chain and the ring take up its packets. -/
theorem sendRepeated_chain {p : Packet} {n : Nat} {s : State} (hs : s.canSend) (hn : n ≠ 0) :
    ∃ t, sendRepeated p n s = .next t ∧ t.sh = chainAfter (List.replicate n p) s.sh
      ∧ ringAfter (List.replicate n p) s t := by
  obtain ⟨hr, hi⟩ := hs
  cases ha : s.autoUpdate with
  | true =>
    obtain ⟨t, ht, hring, hfields⟩ := sendRepeated_auto (p := p) hr hn ha (hi ha)
    exact ⟨t, ht, by rw [hfields], hring⟩
  | false =>
    obtain ⟨t, ht, hfields, hring⟩ := sendRepeated_manual (p := p) hr hn ha
    exact ⟨t, ht, by rw [hfields], hring⟩

/-- One SEND_PACKET of one packet moves the chain on by it, and the next one can follow. -/
theorem exec_sendPacket_chain {p : Packet} {s : State} (hs : s.canSend) :
    ∃ t, exec (.sendPacket p 1) s = .next t ∧ t.sh = chainAfter [p] s.sh ∧ t.canSend := by
  have ⟨⟨hc, _⟩, _⟩ := hs
  obtain ⟨t, ht, hsh, hring⟩ := sendRepeated_chain (p := p) hs one_ne_zero
  have hnext : t.canSend := canSend_of_sendFrame hs (sendRepeated_frame ht) hring
  refine ⟨t.respond (.success .nothing), ?_, hsh, hnext⟩
  calc exec (.sendPacket p 1) s
      = whenConstructed s (andThen (sendRepeated p 1 s) (finish .nothing)) := rfl
    _ = .next (t.respond (.success .nothing)) := by
        rw [whenConstructed_of hc, ht, andThen_next, finish_eq]

/-- SEND_PACKETs one after the other complete and move the chain on by all their packets. -/
theorem runAll_sendPacket_chain (ps : List Packet) {s : State} (hs : s.canSend) :
    ∃ t, runAll (ps.map fun p => .sendPacket p 1) s = .next t ∧ t.sh = chainAfter ps s.sh := by
  induction ps generalizing s with
  | nil => exact ⟨s, rfl, List.take_length.symm⟩
  | cons p ps ih =>
    obtain ⟨u, hu, hush, hnext⟩ := exec_sendPacket_chain (p := p) hs
    obtain ⟨t, ht, htsh⟩ := ih hnext
    refine ⟨t, ?_, ?_⟩
    · rw [List.map_cons, runAll, hu, andThen_next, ht]
    · rw [htsh, hush, chainAfter_append, List.singleton_append]

/-- As many packets as there are chips push every old value out: the chain holds them, last sent nearest. -/
theorem chainAfter_of_length_eq {ps sh : List Packet} (h : ps.length = sh.length) : chainAfter ps sh = ps.reverse := by
  rw [chainAfter, List.take_left' (by rw [List.length_reverse, h])]

/-- Settles O37: after `L` sends the chain holds the packets in reverse. -/
theorem firstSentEndsFurthest : Obligations.FirstSentEndsFurthest := by
  unfold Obligations.FirstSentEndsFurthest
  intro s ps hr hi hchips hps
  obtain ⟨t, ht, hsh⟩ := runAll_sendPacket_chain ps ⟨hr, hi⟩
  rw [chainAfter_of_length_eq (hps.trans hchips.symm)] at hsh
  refine ⟨t, ht, by rw [hsh, List.length_reverse, hps], fun k hk => ?_⟩
  rw [hsh, List.getElem?_reverse (by rw [hps]; exact hk), hps]

end Sys2Proof.Machine

/-! The encoding of packets and of operations (30_encoding.md): the PWM fields are made of the correction fields and pads
that lie on the same bits (R64), and the operations of part B that are expansions into others are equal to them (R78). -/

namespace Sys2Proof.Machine

/-! ## The two views of one word -/

/-- Two slices that lie side by side make up the slice over both, the lower one counting from 1 and the upper one from
`2 ^ v`. -/
theorem slice_add_toNat (p : Packet) (lo v w : Nat) :
    (slice p lo (v + w)).toNat = (slice p lo v).toNat + 2 ^ v * (slice p (lo + v) w).toNat := by
  rw [slice_toNat, slice_toNat, slice_toNat, pow_add, Nat.mod_mul, Nat.div_div_eq_div_mul, ← pow_add]

/-- Bits 9 to 0: `correct0`, `clockMode` and the pad at bit 9. -/
theorem pwmView_ch0_toNat (p : Packet) :
    (pwmView p).ch0.toNat
      = (corrView p).correct0.toNat + 128 * (corrView p).clockMode.toNat + 512 * (slice p pad9At 1).toNat := by
  calc (slice p ch0At 10).toNat
      = (slice p correct0At 7).toNat + 2 ^ 7 * (slice p clockModeAt (2 + 1)).toNat := slice_add_toNat p correct0At 7 3
    _ = (slice p correct0At 7).toNat
          + 2 ^ 7 * ((slice p clockModeAt 2).toNat + 2 ^ 2 * (slice p pad9At 1).toNat) := by
        rw [slice_add_toNat p clockModeAt 2 1]; rfl
    _ = (slice p correct0At 7).toNat + 128 * (slice p clockModeAt 2).toNat + 512 * (slice p pad9At 1).toNat := by ring

/-- Bits 19 to 10: `correct1` and the pad at bits 19 to 17. -/
theorem pwmView_ch1_toNat (p : Packet) :
    (pwmView p).ch1.toNat = (corrView p).correct1.toNat + 128 * (slice p pad19At 3).toNat :=
  slice_add_toNat p correct1At 7 3

/-- Bits 29 to 20: `correct2`, the pad at bit 27, and the two test bits. -/
theorem pwmView_ch2_toNat (p : Packet) :
    (pwmView p).ch2.toNat = (corrView p).correct2.toNat + 128 * (slice p pad27At 1).toNat
      + 256 * (corrView p).atb0.toNat + 512 * (corrView p).atb1.toNat := by
  calc (slice p ch2At 10).toNat
      = (slice p correct2At 7).toNat + 2 ^ 7 * (slice p pad27At (1 + 2)).toNat := slice_add_toNat p correct2At 7 3
    _ = (slice p correct2At 7).toNat
          + 2 ^ 7 * ((slice p pad27At 1).toNat + 2 ^ 1 * (slice p atb0At (1 + 1)).toNat) := by
        rw [slice_add_toNat p pad27At 1 2]; rfl
    _ = (slice p correct2At 7).toNat + 2 ^ 7 * ((slice p pad27At 1).toNat
          + 2 ^ 1 * ((slice p atb0At 1).toNat + 2 ^ 1 * (slice p atb1At 1).toNat)) := by
        rw [slice_add_toNat p atb0At 1 1]; rfl
    _ = (slice p correct2At 7).toNat + 128 * (slice p pad27At 1).toNat
          + 256 * (slice p atb0At 1).toNat + 512 * (slice p atb1At 1).toNat := by ring

/-- After a NEW_CHAIN, PWM_VIEW answers the PWM slices and changes nothing else. -/
theorem exec_pwmView {s : State} (hc : s.constructed = true) (p : Packet) :
    exec (.pwmView p) s = .next { s with response := ⟨.ok, .pwmView (pwmView p)⟩ } :=
  whenConstructed_finish hc _

/-- After a NEW_CHAIN, CORR_VIEW answers the correction slices and changes nothing else. -/
theorem exec_corrView {s : State} (hc : s.constructed = true) (p : Packet) :
    exec (.corrView p) s = .next { s with response := ⟨.ok, .corrView (corrView p)⟩ } :=
  whenConstructed_finish hc _

/-- Settles O13: each PWM field is split at the borders of the correction fields, whose pads are slices too. -/
theorem viewsOverlap : Obligations.ViewsOverlap := by
  unfold Obligations.ViewsOverlap
  intro s p hc
  have hpad9 : (slice p pad9At 1).toNat = p.toNat / 2 ^ 9 % 2 := slice_toNat p 9 1
  have hpad19 : (slice p pad19At 3).toNat = p.toNat / 2 ^ 17 % 8 := slice_toNat p 17 3
  have hpad27 : (slice p pad27At 1).toNat = p.toNat / 2 ^ 27 % 2 := slice_toNat p 27 1
  refine ⟨pwmView p, corrView p, exec_pwmView hc p, exec_corrView hc p, ?_, ?_, ?_⟩
  · rw [← hpad9, pwmView_ch0_toNat]
  · rw [← hpad19, pwmView_ch1_toNat]
  · rw [← hpad27, pwmView_ch2_toNat]

/-! ## Operations defined by expansion -/

/-- After a NEW_CHAIN, BUILD_PWM answers the PWM packet of its operands and changes nothing else. -/
theorem exec_buildPwm {s : State} (hc : s.constructed = true) (a b c : Nat) :
    exec (.buildPwm a b c) s = .next { s with response := ⟨.ok, .packet (buildPwm a b c)⟩ } :=
  whenConstructed_finish hc _

/-- After a NEW_CHAIN, BUILD_CORR answers the correction packet of its operands and changes nothing else. -/
theorem exec_buildCorr {s : State} (hc : s.constructed = true) (a b c m : Nat) :
    exec (.buildCorr a b c m) s = .next { s with response := ⟨.ok, .packet (buildCorr a b c m)⟩ } :=
  whenConstructed_finish hc _

/-- SEND_ALL is SEND_PACKET repeated for the chain's length (42_chain_controller.md R132). -/
theorem exec_sendAll_eq (p : Packet) (s : State) : exec (.sendAll p) s = exec (.sendPacket p s.chainLen) s := rfl

/-- SEND_PWM is one SEND_PACKET of what BUILD_PWM assembles (42_chain_controller.md R133). -/
theorem exec_sendPwm_eq (a b c : Nat) (s : State) :
    exec (.sendPwm a b c) s = exec (.sendPacket (buildPwm a b c) 1) s := rfl

/-- SEND_CORR is one SEND_PACKET of what BUILD_CORR assembles (42_chain_controller.md R134). -/
theorem exec_sendCorr_eq (a b c m : Nat) (s : State) :
    exec (.sendCorr a b c m) s = exec (.sendPacket (buildCorr a b c m) 1) s := rfl

/-- RESTORE_STATE of a whole saved state is SEND_PACKETS of it, far end first (41_ring_tracker.md R106). -/
theorem exec_restoreState_eq {ps : List Packet} {s : State} (hlen : ps.length = s.chainLen) :
    exec (.restoreState ps) s = exec (.sendPackets ps.reverse) s := by
  calc exec (.restoreState ps) s
      = whenConstructed s (if ps.length = s.chainLen then andThen (sendBatch ps.reverse s) (finish .nothing)
          else .refused .misSizedSequence) := rfl
    _ = whenConstructed s (andThen (sendBatch ps.reverse s) (finish .nothing)) := by rw [if_pos hlen]

/-- Settles O41: the one packet of each shorthand is the one its builder assembles. -/
theorem pseudoOperationsExpand : Obligations.PseudoOperationsExpand := by
  unfold Obligations.PseudoOperationsExpand
  intro a b c m
  refine ⟨buildPwm a b c, buildCorr a b c m, fun s p ps => ⟨?sendAll, ?restore, ?pwm, ?sendPwm, ?corr, ?sendCorr⟩⟩
  case sendAll => exact exec_sendAll_eq p s
  case restore => exact exec_restoreState_eq
  case pwm => exact fun hc => exec_buildPwm hc a b c
  case sendPwm => exact exec_sendPwm_eq a b c s
  case corr => exact fun hc => exec_buildCorr hc a b c m
  case sendCorr => exact exec_sendCorr_eq a b c m s

end Sys2Proof.Machine

/-! The packet codec (40_packet_codec.md): the builders as numbers, fields and the mode flag (R84, R85), what the views
and DECODE answer for what a builder made (R90 to R93), and building again from a view (R95). -/

namespace Sys2Proof.Machine

/-! ## What the codec's readers answer -/

/-- After a NEW_CHAIN, RAW_VALUE answers the packet itself and changes nothing else. -/
theorem exec_rawValue {s : State} (hc : s.constructed = true) (p : Packet) :
    exec (.rawValue p) s = .next { s with response := ⟨.ok, .raw p⟩ } :=
  whenConstructed_finish hc _

/-- After a NEW_CHAIN, MODE_OF answers the mode flag and changes nothing else. -/
theorem exec_modeOf {s : State} (hc : s.constructed = true) (p : Packet) :
    exec (.modeOf p) s = .next { s with response := ⟨.ok, .mode (modeOf p)⟩ } :=
  whenConstructed_finish hc _

/-- After a NEW_CHAIN, DECODE answers the view the mode flag selects and changes nothing else. -/
theorem exec_decodeView {s : State} (hc : s.constructed = true) (p : Packet) :
    exec (.decodeView p) s = .next { s with response := ⟨.ok, .view (selectView p)⟩ } :=
  whenConstructed_finish hc _

theorem selectView_of_modePwm {p : Packet} (h : modeOf p = modePwm) : selectView p = .pwm (pwmView p) := if_pos h

theorem selectView_of_modeCorr {p : Packet} (h : modeOf p = modeCorr) : selectView p = .corr (corrView p) :=
  if_neg (by rw [h]; decide)

/-- Settles O3: the mode flag is bit 30. -/
theorem rawValueAndModeOf : Obligations.RawValueAndModeOf := by
  unfold Obligations.RawValueAndModeOf
  intro s p hc
  rw [← modeOf_eq]
  exact ⟨exec_rawValue hc p, exec_modeOf hc p⟩

/-- Settles O4: each field of a view is a slice, and a slice is a quotient and a remainder. -/
theorem viewsAreSlices : Obligations.ViewsAreSlices := by
  unfold Obligations.ViewsAreSlices
  intro s p hc
  have hlow (w : Nat) : (slice p 0 w).toNat = p.toNat % 2 ^ w := by rw [slice_toNat, pow_zero, Nat.div_one]
  exact ⟨pwmView p, corrView p, exec_pwmView hc p, exec_corrView hc p,
    hlow 10, slice_toNat p 10 10, slice_toNat p 20 10,
    hlow 7, slice_toNat p 10 7, slice_toNat p 20 7, slice_toNat p 7 2, slice_toNat p 28 1, slice_toNat p 29 1⟩

/-- Settles O5: the view DECODE selects is one of the two that the other operations answer. -/
theorem decodeSelectsView : Obligations.DecodeSelectsView := by
  unfold Obligations.DecodeSelectsView
  intro s p hc
  exact ⟨pwmView p, corrView p, exec_pwmView hc p, exec_corrView hc p, by rw [exec_decodeView hc, selectView_eq]⟩

/-! ## The builders as numbers -/

/-- Truncation is the remainder by the width. -/
theorem trunc_toNat (n v : Nat) : (trunc n v).toNat = v % 2 ^ n := BitVec.toNat_ofNat v n

/-- A field that fits into the packet at its position counts from that position's power of two. -/
theorem place_toNat {n k : Nat} (v : BitVec n) (hk : n + k ≤ 32) : (place v k).toNat = v.toNat <<< k := by
  have hv : v.toNat < 2 ^ n := v.isLt
  have hn : 2 ^ n ≤ 2 ^ 32 := Nat.pow_le_pow_right two_pos (by omega)
  have hshift : v.toNat <<< k < 2 ^ 32 := by
    calc v.toNat <<< k
        = v.toNat * 2 ^ k := Nat.shiftLeft_eq _ _
      _ < 2 ^ n * 2 ^ k := Nat.mul_lt_mul_of_pos_right hv (Nat.two_pow_pos k)
      _ = 2 ^ (n + k) := (pow_add 2 n k).symm
      _ ≤ 2 ^ 32 := Nat.pow_le_pow_right two_pos hk
  rw [place, BitVec.toNat_shiftLeft, BitVec.toNat_setWidth, Nat.mod_eq_of_lt (hv.trans_le hn), Nat.mod_eq_of_lt hshift]

/-- A truncated operand at its position. -/
theorem place_trunc_toNat {n k : Nat} (v : Nat) (hk : n + k ≤ 32) :
    (place (trunc n v) k).toNat = (v % 2 ^ n) <<< k := by rw [place_toNat _ hk, trunc_toNat]

/-- The PWM packet as a number: its fields do not overlap, so the or of them is their sum. -/
theorem buildPwm_toNat (a b c : Nat) :
    (buildPwm a b c).toNat = (c % 1024) * 2 ^ 20 + (b % 1024) * 2 ^ 10 + a % 1024 := by
  have h2 : (place (trunc 10 c) ch2At).toNat = (c % 1024) <<< 20 := place_trunc_toNat c (by decide)
  have h1 : (place (trunc 10 b) ch1At).toNat = (b % 1024) <<< 10 := place_trunc_toNat b (by decide)
  have h0 : (place (trunc 10 a) ch0At).toNat = a % 1024 := place_trunc_toNat a (by decide)
  rw [buildPwm, BitVec.toNat_or, BitVec.toNat_or, h2, h1, h0, Nat.or_assoc,
    shiftLeft_or_eq_add (b := a % 1024) (by omega), shiftLeft_or_eq_add (by omega)]
  ring

/-- The correction packet as a number: the mode flag and its fields do not overlap, so the or of them is their sum. -/
theorem buildCorr_toNat (c0 c1 c2 m : Nat) :
    (buildCorr c0 c1 c2 m).toNat
      = 2 ^ 30 + (c2 % 128) * 2 ^ 20 + (c1 % 128) * 2 ^ 10 + (m % 4) * 2 ^ 7 + c0 % 128 := by
  have hmode : (place modeCorr modeBit).toNat = 1 <<< 30 := rfl
  have h2 : (place (trunc 7 c2) correct2At).toNat = (c2 % 128) <<< 20 := place_trunc_toNat c2 (by decide)
  have h1 : (place (trunc 7 c1) correct1At).toNat = (c1 % 128) <<< 10 := place_trunc_toNat c1 (by decide)
  have hm : (place (trunc 2 m) clockModeAt).toNat = (m % 4) <<< 7 := place_trunc_toNat m (by decide)
  have h0 : (place (trunc 7 c0) correct0At).toNat = c0 % 128 := place_trunc_toNat c0 (by decide)
  rw [buildCorr, BitVec.toNat_or, BitVec.toNat_or, BitVec.toNat_or, BitVec.toNat_or, hmode, h2, h1, hm, h0,
    Nat.or_assoc, Nat.or_assoc, Nat.or_assoc, shiftLeft_or_eq_add (b := c0 % 128) (by omega),
    shiftLeft_or_eq_add (a := c1 % 128) (by omega), shiftLeft_or_eq_add (a := c2 % 128) (by omega),
    shiftLeft_or_eq_add (by omega)]
  ring

/-- Settles O1: the packet is `buildPwm` of the operands, whose number is known. -/
theorem buildPwmAssemblesFields : Obligations.BuildPwmAssemblesFields := by
  unfold Obligations.BuildPwmAssemblesFields
  intro s a b c hc
  exact ⟨buildPwm a b c, exec_buildPwm hc a b c, buildPwm_toNat a b c⟩

/-- Settles O2: the packet is `buildCorr` of the operands, whose number is known. -/
theorem buildCorrAssemblesFields : Obligations.BuildCorrAssemblesFields := by
  unfold Obligations.BuildCorrAssemblesFields
  intro s c0 c1 c2 m hc
  exact ⟨buildCorr c0 c1 c2 m, exec_buildCorr hc c0 c1 c2 m, buildCorr_toNat c0 c1 c2 m⟩

/-! ## The views of what a builder made -/

/-- BUILD_PWM leaves the mode flag 0. -/
theorem modeOf_buildPwm (a b c : Nat) : modeOf (buildPwm a b c) = modePwm :=
  slice_eq (by rw [buildPwm_toNat]; simp only [modeBit, modePwm, BitVec.toNat_ofNat]; omega)

/-- BUILD_CORR sets the mode flag. -/
theorem modeOf_buildCorr (c0 c1 c2 m : Nat) : modeOf (buildCorr c0 c1 c2 m) = modeCorr :=
  slice_eq (by rw [buildCorr_toNat]; simp only [modeBit, modeCorr, BitVec.toNat_ofNat]; omega)

/-- The PWM view gives each operand of BUILD_PWM back, truncated to its field. -/
theorem pwmView_buildPwm (a b c : Nat) : pwmView (buildPwm a b c) = ⟨trunc 10 a, trunc 10 b, trunc 10 c⟩ := by
  rw [pwmView, PwmFields.mk.injEq]
  refine ⟨slice_eq ?_, slice_eq ?_, slice_eq ?_⟩ <;> rw [buildPwm_toNat, trunc_toNat]
  · simp only [ch0At]; omega
  · simp only [ch1At]; omega
  · simp only [ch2At]; omega

/-- The correction view gives each operand of BUILD_CORR back, truncated to its field, and test bits 0. -/
theorem corrView_buildCorr (c0 c1 c2 m : Nat) :
    corrView (buildCorr c0 c1 c2 m) = ⟨trunc 7 c0, trunc 7 c1, trunc 7 c2, trunc 2 m, 0#1, 0#1⟩ := by
  rw [corrView, CorrFields.mk.injEq]
  refine ⟨slice_eq ?c0, slice_eq ?c1, slice_eq ?c2, slice_eq ?m, slice_eq ?test0, slice_eq ?test1⟩ <;>
    rw [buildCorr_toNat]
  case c0 => rw [trunc_toNat]; simp only [correct0At]; omega
  case c1 => rw [trunc_toNat]; simp only [correct1At]; omega
  case c2 => rw [trunc_toNat]; simp only [correct2At]; omega
  case m => rw [trunc_toNat]; simp only [clockModeAt]; omega
  case test0 => simp only [atb0At, BitVec.toNat_ofNat]; omega
  case test1 => simp only [atb1At, BitVec.toNat_ofNat]; omega

/-- DECODE reads a packet of BUILD_PWM as PWM. -/
theorem selectView_buildPwm (a b c : Nat) :
    selectView (buildPwm a b c) = .pwm ⟨trunc 10 a, trunc 10 b, trunc 10 c⟩ := by
  rw [selectView_of_modePwm (modeOf_buildPwm a b c), pwmView_buildPwm]

/-- DECODE reads a packet of BUILD_CORR as a correction. -/
theorem selectView_buildCorr (c0 c1 c2 m : Nat) :
    selectView (buildCorr c0 c1 c2 m) = .corr ⟨trunc 7 c0, trunc 7 c1, trunc 7 c2, trunc 2 m, 0#1, 0#1⟩ := by
  rw [selectView_of_modeCorr (modeOf_buildCorr c0 c1 c2 m), corrView_buildCorr]

/-- No packet comes from both builders: the mode flag tells them apart. -/
theorem buildPwm_ne_buildCorr (a b c c0 c1 c2 m : Nat) : buildPwm a b c ≠ buildCorr c0 c1 c2 m := by
  intro h
  have hmode : modePwm = modeCorr := by rw [← modeOf_buildPwm a b c, h, modeOf_buildCorr]
  exact absurd hmode (by decide)

/-- Settles O8: the operands come back truncated to 10 bits. -/
theorem pwmRoundTrip : Obligations.PwmRoundTrip := by
  unfold Obligations.PwmRoundTrip
  intro s a b c hc
  refine ⟨buildPwm a b c, exec_buildPwm hc a b c, ⟨trunc 10 a, trunc 10 b, trunc 10 c⟩,
    trunc_toNat 10 a, trunc_toNat 10 b, trunc_toNat 10 c, fun t ht => ⟨?view, ?mode, ?decode⟩⟩
  case view => rw [exec_pwmView ht, pwmView_buildPwm]
  case mode => rw [exec_modeOf ht, modeOf_buildPwm, modePwm]
  case decode => rw [exec_decodeView ht, selectView_buildPwm]

/-- Settles O9: the operands come back truncated to 7 and 2 bits. -/
theorem corrRoundTrip : Obligations.CorrRoundTrip := by
  unfold Obligations.CorrRoundTrip
  intro s a b c m hc
  refine ⟨buildCorr a b c m, exec_buildCorr hc a b c m, ⟨trunc 7 a, trunc 7 b, trunc 7 c, trunc 2 m, 0#1, 0#1⟩,
    trunc_toNat 7 a, trunc_toNat 7 b, trunc_toNat 7 c, trunc_toNat 2 m, rfl, rfl,
    fun t ht => ⟨?view, ?mode, ?decode⟩⟩
  case view => rw [exec_corrView ht, corrView_buildCorr]
  case mode => rw [exec_modeOf ht, modeOf_buildCorr, modeCorr]
  case decode => rw [exec_decodeView ht, selectView_buildCorr]

/-- Settles O10: each builder fixes the mode flag, which alone selects the view. -/
theorem formatsAreIsolated : Obligations.FormatsAreIsolated := by
  unfold Obligations.FormatsAreIsolated
  intro s a b c d e f m hc
  refine ⟨buildPwm a b c, buildCorr d e f m, exec_buildPwm hc a b c, exec_buildCorr hc d e f m,
    buildPwm_ne_buildCorr a b c d e f m, fun t ht => ⟨?modePwm, ?modeCorr, ⟨pwmView (buildPwm a b c), ?pwm⟩,
      ⟨corrView (buildCorr d e f m), ?corr⟩⟩⟩
  case modePwm => rw [exec_modeOf ht, modeOf_buildPwm, modePwm]
  case modeCorr => rw [exec_modeOf ht, modeOf_buildCorr, modeCorr]
  case pwm => rw [exec_decodeView ht, selectView_of_modePwm (modeOf_buildPwm a b c)]
  case corr => rw [exec_decodeView ht, selectView_of_modeCorr (modeOf_buildCorr d e f m)]

/-! ## Building again from a view -/

/-- A slice put back where it came from is the packet with all other bits cleared. -/
theorem place_slice (p : Packet) (lo w : Nat) : place (slice p lo w) lo = p &&& place (BitVec.allOnes w) lo := by
  refine BitVec.eq_of_getLsbD_eq fun i hi => ?_
  by_cases hlo : i < lo
  · simp [place, hlo]
  · have hpos : lo + (i - lo) = i := by omega
    by_cases hw : i - lo < w <;> simp [place, slice, hlo, hw, hi, hpos]

/-- Truncating a field's own number gives the field. -/
theorem trunc_of_toNat {n : Nat} (v : BitVec n) : trunc n v.toNat = v := by
  rw [trunc, BitVec.ofNat_toNat, BitVec.setWidth_eq]

/-- BUILD_PWM of the PWM view clears bits 31 and 30: what is kept is the or of the three fields' masks. -/
theorem buildPwm_pwmView (p : Packet) :
    buildPwm (pwmView p).ch0.toNat (pwmView p).ch1.toNat (pwmView p).ch2.toNat = p &&& 0x3FFFFFFF#32 := by
  simp only [buildPwm, pwmView, trunc_of_toNat, place_slice, ← BitVec.and_or_distrib_left]
  rfl

/-- BUILD_CORR of the correction view keeps the four fields, clears every other bit and sets the mode flag. -/
theorem buildCorr_corrView (p : Packet) :
    buildCorr (corrView p).correct0.toNat (corrView p).correct1.toNat (corrView p).correct2.toNat
      (corrView p).clockMode.toNat = (p &&& 0x07F1FDFF#32) ||| 0x40000000#32 := by
  simp only [buildCorr, corrView, trunc_of_toNat, place_slice, BitVec.or_assoc, ← BitVec.and_or_distrib_left]
  exact BitVec.or_comm _ _

/-- A packet whose bits under a mask are known is the rest of it with those bits put in. -/
theorem and_not_or_eq_self {p k v : Packet} (h : p &&& k = v) : (p &&& ~~~k) ||| v = p := by
  rw [← h, ← BitVec.and_or_distrib_left, BitVec.or_comm, BitVec.or_not_self, BitVec.and_allOnes]

/-- Settles O12: the bits a builder fixes are those outside the masks, where a canonical packet has them already. -/
theorem reEncoding : Obligations.ReEncoding := by
  unfold Obligations.ReEncoding
  intro s p hc
  refine ⟨pwmView p, corrView p, _, _, exec_pwmView hc p, exec_corrView hc p, exec_buildPwm hc _ _ _,
    exec_buildCorr hc _ _ _ _, buildPwm_pwmView p, buildCorr_corrView p, fun h => ?pwm, fun h => ?corr⟩
  case pwm => rw [buildPwm_pwmView, ← BitVec.or_zero (x := p &&& 0x3FFFFFFF#32)]; exact and_not_or_eq_self h
  case corr => rw [buildCorr_corrView]; exact and_not_or_eq_self h

end Sys2Proof.Machine

/-! The ring-buffer tracker's own operations (41_ring_tracker.md R98 to R104, R112): what each answers, one lemma per
case. -/

namespace Sys2Proof.Machine

/-- An operation that completes, with more to follow. -/
theorem runAll_cons {i : Instr} {is : List Instr} {s t : State} (h : exec i s = .next t) :
    runAll (i :: is) s = runAll is t := by
  rw [runAll, h, andThen_next]

/-! ## SET_TRACKING -/

/-- Setting `trk_alloc` to what it is leaves only `trk_en` to be set. -/
theorem setTrk_of_trkAlloc {s : State} {a : Bool} (h : s.trkAlloc = a) (e : Bool) :
    s.setTrk a e = { s with trkEn := e } := by
  subst h
  rfl

/-- A disable clears `trk_en` and nothing else. -/
theorem exec_setTracking_false {s : State} (hc : s.constructed = true) :
    exec (.setTracking false) s = .next { s with trkEn := false, response := ⟨.ok, .bool false⟩ } :=
  whenConstructed_of hc _

/-- The first enable that the storage allows allocates the ring. -/
theorem exec_setTracking_allocates {s : State} (hc : s.constructed = true) (ha : s.trkAlloc = false)
    (hcap : s.chainLen ≤ s.cfg.capacity) :
    exec (.setTracking true) s = .next (((allocateRing s).setTrk true true).respond (.success (.bool true))) := by
  change execSetTracking true s = _
  rw [execSetTracking, whenConstructed_of hc, if_pos rfl, if_neg (by simp [ha]), if_neg hcap.not_gt, finish_eq]

/-- An enable that the storage does not allow fails and leaves tracking off. -/
theorem exec_setTracking_fails {s : State} (hc : s.constructed = true) (ha : s.trkAlloc = false)
    (hcap : s.cfg.capacity < s.chainLen) :
    exec (.setTracking true) s = .next { s with trkEn := false, response := ⟨.enableFailed, .bool false⟩ } := by
  change execSetTracking true s = _
  rw [execSetTracking, whenConstructed_of hc, if_pos rfl, if_neg (by simp [ha]), if_pos hcap, raise_eq]
  rfl

/-- An enable after an allocation sets `trk_en` and touches neither the head nor the slots. -/
theorem exec_setTracking_again {s : State} (hc : s.constructed = true) (ha : s.trkAlloc = true) :
    exec (.setTracking true) s = .next { s with trkEn := true, response := ⟨.ok, .bool true⟩ } := by
  change execSetTracking true s = _
  rw [execSetTracking, whenConstructed_of hc, if_pos rfl, if_pos ha, finish_eq, setTrk_of_trkAlloc ha]
  rfl

/-- Settles O15: each clause is one case of SET_TRACKING; an allocation holds a slot at every index below L. -/
theorem setTrackingRule : Obligations.SetTrackingRule := by
  unfold Obligations.SetTrackingRule
  intro s hc
  refine ⟨fun ha hcap => ?_, exec_setTracking_fails hc, exec_setTracking_again hc, exec_setTracking_false hc⟩
  exact ⟨_, exec_setTracking_allocates hc ha hcap, rfl, ⟨Memory.allocate_keys _ _, le_rfl⟩,
    fun a hlt => ⟨_, Memory.read_allocate _ hlt⟩⟩

/-- Settles O16: neither an enable after an allocation nor a disable touches the ring, and a failed enable leaves the
conditions of its failure as they were. -/
theorem allocationHappensOnce : Obligations.AllocationHappensOnce := by
  unfold Obligations.AllocationHappensOnce
  intro s hc
  constructor
  · intro ha
    have henable : runAll [.setTracking true] s
        = .next { s with trkEn := true, response := ⟨.ok, .bool true⟩ } :=
      runAll_cons (exec_setTracking_again hc ha)
    have hdisableEnable : runAll [.setTracking false, .setTracking true] s
        = .next { s with trkEn := true, response := ⟨.ok, .bool true⟩ } := by
      rw [runAll_cons (exec_setTracking_false hc)]
      exact runAll_cons (exec_setTracking_again hc ha)
    exact ⟨_, _, henable, rfl, rfl, ha, rfl, hdisableEnable, rfl, rfl, ha, rfl⟩
  · intro ha hcap
    have hfails : runAll [.setTracking true, .setTracking true] s
        = .next { s with trkEn := false, response := ⟨.enableFailed, .bool false⟩ } := by
      rw [runAll_cons (exec_setTracking_fails hc ha hcap)]
      exact runAll_cons (exec_setTracking_fails hc ha hcap)
    exact ⟨_, hfails, rfl, ha, rfl⟩

/-! ## TRK_WRITE -/

/-- With tracking off TRK_WRITE only answers. -/
theorem exec_trkWrite_off {p : Packet} {s : State} (hc : s.constructed = true) (he : s.trkEn = false) :
    exec (.trkWrite p) s = .next { s with response := .done } := by
  change execTrkWrite p s = _
  rw [execTrkWrite, whenConstructed_of hc, writeRing_off he]
  rfl

/-- Settles O17: the write goes to the one slot `nextHead`, and leaves the ring whole. -/
theorem trkWriteRule : Obligations.TrkWriteRule := by
  unfold Obligations.TrkWriteRule
  intro s p hc
  refine ⟨fun he hl hw => ?_, exec_trkWrite_off hc⟩
  obtain ⟨m, hm, hex⟩ := exec_trkWrite_on (p := p) hc he hl hw
  exact ⟨_, hex, rfl, Memory.read_write_same hm, fun a ha => Memory.read_write_other hm ha,
    ringWhole_setRing_nextHead hl hw hm, nextHead_lt hl hw.2⟩

/-! ## GET_STATE -/

/-- With tracking on, GET_STATE of a position below L answers what its slot holds. -/
theorem exec_getState_on {s : State} {k : Nat} {p : Packet} (hc : s.constructed = true) (hk : k < s.chainLen)
    (he : s.trkEn = true) (hp : readPosition s k = some p) :
    exec (.getState k) s = .next { s with response := ⟨.ok, .packet p⟩ } := by
  have havail : ¬ (s.chainLen ≤ k ∨ tracking s = false) := by simp [tracking, hk, he]
  change execGetState k s = _
  rw [execGetState, whenConstructed_of hc, if_neg havail, hp]
  rfl

/-- Past the last position, or with tracking off, GET_STATE answers NOT_AVAILABLE. -/
theorem exec_getState_unavailable {s : State} {k : Nat} (hc : s.constructed = true)
    (h : s.chainLen ≤ k ∨ s.trkEn = false) :
    exec (.getState k) s = .next { s with response := ⟨.notAvailable, .nothing⟩ } := by
  change execGetState k s = _
  rw [execGetState, whenConstructed_of hc, if_pos (show s.chainLen ≤ k ∨ tracking s = false from h)]
  rfl

/-- Settles O18: in a whole ring the slot of a position below L exists. -/
theorem getStateRule : Obligations.GetStateRule := by
  unfold Obligations.GetStateRule
  intro s k hc
  refine ⟨fun hk he hw => ?_, exec_getState_unavailable hc⟩
  obtain ⟨hkeys, -⟩ := hw
  obtain ⟨p, hp⟩ := readPosition_exists hk hkeys
  exact ⟨p, hp, exec_getState_on hc hk he hp⟩

/-! ## SAVE_STATE -/

/-- The ring in logical order is the list whose element `k` is the packet at position `k`. -/
theorem ringView_eq_some_iff {s : State} {ps : List Packet} :
    ringView s = some ps ↔ ps.length = s.chainLen ∧ ∀ k, k < s.chainLen → ps[k]? = readPosition s k := by
  have hget : ∀ k, k < s.chainLen → ((List.range s.chainLen).map (readPosition s))[k]? = some (readPosition s k) := by
    intro k hk
    rw [List.getElem?_map, List.getElem?_range hk, Option.map_some]
  constructor
  · intro h
    have hmap := readPositions_spec h
    have hlen : ps.length = s.chainLen := by simpa using congrArg List.length hmap
    refine ⟨hlen, fun k hk => ?_⟩
    have hk' := hget k hk
    rw [← hmap, List.getElem?_map, List.getElem?_eq_getElem (by omega), Option.map_some] at hk'
    rw [List.getElem?_eq_getElem (by omega), Option.some.inj hk']
  · rintro ⟨hlen, hread⟩
    refine readPositions_of (List.ext_getElem (by simp [hlen]) fun k hk _ => ?_)
    have hk' : k < ps.length := by simpa using hk
    rw [List.getElem_map, List.getElem_map, List.getElem_range, ← hread k (hlen ▸ hk'),
      List.getElem?_eq_getElem hk']

/-- A whole ring reads as a whole. -/
theorem ringView_exists {s : State} (hw : s.ringWhole) : ∃ ps, ringView s = some ps := by
  have hpos : ∀ k : Fin s.chainLen, ∃ p, readPosition s k = some p := fun k => readPosition_exists k.isLt hw.1
  choose f hf using hpos
  refine ⟨List.ofFn f, ringView_eq_some_iff.2 ⟨List.length_ofFn, fun k hk => ?_⟩⟩
  rw [List.getElem?_ofFn, dif_pos hk, hf ⟨k, hk⟩]

/-- With tracking on and the head off the sentinel, SAVE_STATE answers the ring in logical order. -/
theorem exec_saveState_on {s : State} {ps : List Packet} (hc : s.constructed = true) (he : s.trkEn = true)
    (hh : s.head ≠ s.chainLen) (hv : ringView s = some ps) :
    exec .saveState s = .next { s with response := ⟨.ok, .seq ps⟩ } := by
  have hfull : ¬ (tracking s = false ∨ atSentinel s = true) := by simp [tracking, atSentinel, he, hh]
  change execSaveState s = _
  rw [execSaveState, whenConstructed_of hc, if_neg hfull,
    show readPositions s (List.range s.chainLen) = some ps from hv]
  rfl

/-- With tracking off or the head at the sentinel, SAVE_STATE answers EMPTY. -/
theorem exec_saveState_empty {s : State} (hc : s.constructed = true) (h : s.trkEn = false ∨ s.head = s.chainLen) :
    exec .saveState s = .next { s with response := ⟨.empty, .seq []⟩ } := by
  have hempty : tracking s = false ∨ atSentinel s = true := by simpa [tracking, atSentinel] using h
  change execSaveState s = _
  rw [execSaveState, whenConstructed_of hc, if_pos hempty]
  rfl

/-- SAVE_STATE answers OK only with tracking on, and then with the ring in logical order. -/
theorem exec_saveState_eq_ok {s t : State} {ps : List Packet} (h : exec .saveState s = .next t)
    (hr : t.response = ⟨.ok, .seq ps⟩) : s.constructed = true ∧ s.trkEn = true ∧ ringView s = some ps := by
  change execSaveState s = _ at h
  obtain ⟨hc, h⟩ := whenConstructed_eq_next h
  split at h
  · cases h
    cases hr
  · rename_i hfull
    split at h
    · rename_i qs hqs
      cases h
      cases hr
      exact ⟨hc, by simpa [tracking] using fun he => hfull (.inl he), hqs⟩
    · cases h

/-- Settles O19: a whole ring reads as a whole, and element `k` is the packet at position `k`. -/
theorem saveStateRule : Obligations.SaveStateRule := by
  unfold Obligations.SaveStateRule
  intro s hc
  refine ⟨fun he hh hw => ?_, exec_saveState_empty hc⟩
  obtain ⟨ps, hv⟩ := ringView_exists hw
  obtain ⟨hlen, hread⟩ := ringView_eq_some_iff.1 hv
  exact ⟨ps, hlen, hread, exec_saveState_on hc he hh hv⟩

/-- Settles O20: SAVE_STATE that answers OK has read every position, and GET_STATE reads one of them. -/
theorem saveAndGetAgree : Obligations.SaveAndGetAgree := by
  unfold Obligations.SaveAndGetAgree
  intro s ps hsave k hk
  obtain ⟨hc, he, hv⟩ := exec_saveState_eq_ok hsave rfl
  obtain ⟨hlen, hread⟩ := ringView_eq_some_iff.1 hv
  have hget : ps[k]? = some ps[k] := List.getElem?_eq_getElem (by omega)
  exact ⟨ps[k], hget, exec_getState_on hc hk he ((hread k hk).symm.trans hget)⟩

end Sys2Proof.Machine

/-! The ring read back after as many sends as it has slots (41_ring_tracker.md R106, R109 to R111): what sends leave
fixes the head and every slot, so a batch, a repeated send and a run of single sends are told apart by their latches. -/

namespace Sys2Proof.Machine

/-! ## The ring after sends is determined -/

/-- Every slot of a ring is at some logical position below L. -/
theorem exists_phys_eq {s : State} {a : Nat} (ha : a < s.chainLen) (hh : s.head ≤ s.chainLen) :
    ∃ k, k < s.chainLen ∧ phys s k = a := by
  by_cases hge : s.head ≤ a
  · refine ⟨a - s.head, by omega, ?_⟩
    rw [phys, Nat.add_sub_cancel' hge, Nat.mod_eq_of_lt ha]
  · refine ⟨a + s.chainLen - s.head, by omega, ?_⟩
    rw [phys, show s.head + (a + s.chainLen - s.head) = a + s.chainLen by omega, Nat.add_mod_right, Nat.mod_eq_of_lt ha]

/-- A read past the first entry. -/
theorem Memory.read_cons_of_ne {a b : Nat} {v : Packet} {m : Memory} (h : b ≠ a) :
    Memory.read ((b, v) :: m) a = Memory.read m a := if_neg h

/-- A memory is its indices, none twice, and what each reads. -/
theorem Memory.ext_read {m m' : Memory} (hkeys : m.map Prod.fst = m'.map Prod.fst) (hnodup : (m.map Prod.fst).Nodup)
    (hread : ∀ a ∈ m.map Prod.fst, Memory.read m a = Memory.read m' a) : m = m' := by
  induction m generalizing m' with
  | nil => exact (List.map_eq_nil_iff.1 hkeys.symm).symm
  | cons c rest ih =>
    obtain ⟨a, v⟩ := c
    cases m' with
    | nil => cases hkeys
    | cons c' rest' =>
      obtain ⟨a', v'⟩ := c'
      obtain ⟨rfl, hrest⟩ : a = a' ∧ rest.map Prod.fst = rest'.map Prod.fst := by simpa using hkeys
      obtain ⟨hfresh, hnodup'⟩ := List.nodup_cons.1 hnodup
      have hv : v = v' := by simpa [Memory.read] using hread a List.mem_cons_self
      rw [hv, ih hrest hnodup' fun b hb => ?_]
      have hne : a ≠ b := fun h => hfresh (h ▸ hb)
      simpa only [Memory.read_cons_of_ne hne] using hread b (List.mem_cons_of_mem _ hb)

/-- What sends leave in the ring fixes the head and every slot. -/
theorem ringAfter_unique {ps : List Packet} {s t u : State} (ht : ringAfter ps s t) (hu : ringAfter ps s u)
    (hlt : t.chainLen = s.chainLen) (hlu : u.chainLen = s.chainLen) : t.head = u.head ∧ t.buf = u.buf := by
  unfold ringAfter at ht hu
  split at ht
  · rename_i he
    rw [if_pos he] at hu
    obtain ⟨hth, ⟨htkeys, hthead⟩, htread, -⟩ := ht
    obtain ⟨huh, ⟨hukeys, -⟩, huread, -⟩ := hu
    have hhead : t.head = u.head := hth.trans huh.symm
    have hkeys : t.buf.map Prod.fst = u.buf.map Prod.fst := by rw [htkeys, hukeys, hlt, hlu]
    refine ⟨hhead, Memory.ext_read hkeys (htkeys ▸ List.nodup_range) fun a ha => ?_⟩
    obtain ⟨k, hk, rfl⟩ := exists_phys_eq (List.mem_range.1 (htkeys ▸ ha)) hthead
    have hphys : phys u k = phys t k := by rw [phys, phys, hhead, hlt, hlu]
    calc readPosition t k = readPosition u k := (htread k (hlt ▸ hk)).trans (huread k (hlt ▸ hk)).symm
      _ = Memory.read u.buf (phys t k) := by rw [readPosition, hphys]
  · rename_i he
    rw [if_neg he] at hu
    exact ⟨ht.1.trans hu.1.symm, ht.2.trans hu.2.symm⟩

/-! ## As many sends as slots -/

/-- After L sends position `k` holds the `k`-th newest packet, and the head stands at a slot. -/
theorem ringView_of_ringAfter {ps : List Packet} {s t : State} (h : ringAfter ps s t) (he : s.trkEn = true)
    (hl : 1 ≤ s.chainLen) (hps : ps.length = s.chainLen) (hlt : t.chainLen = s.chainLen) :
    t.head < t.chainLen ∧ ringView t = some ps.reverse := by
  rw [ringAfter, if_pos he] at h
  obtain ⟨hhead, -, hread, -⟩ := h
  constructor
  · rw [hhead, hlt, hps, headAfter, if_neg (by omega)]
    exact Nat.mod_lt _ hl
  · refine ringView_eq_some_iff.2 ⟨by rw [List.length_reverse, hps, hlt], fun k hk => ?_⟩
    rw [hread k (hlt ▸ hk), if_pos (by omega)]

/-- After L sends with tracking on, SAVE_STATE answers their packets, newest first. -/
theorem exec_saveState_of_ringAfter {ps : List Packet} {s t : State} (h : ringAfter ps s t) (he : s.trkEn = true)
    (hl : 1 ≤ s.chainLen) (hps : ps.length = s.chainLen) (hlt : t.chainLen = s.chainLen) (hct : t.constructed = true)
    (het : t.trkEn = true) :
    exec .saveState t = .next { t with response := ⟨.ok, .seq ps.reverse⟩ } := by
  obtain ⟨hhead, hview⟩ := ringView_of_ringAfter h he hl hps hlt
  exact exec_saveState_on hct het hhead.ne hview

/-- After L sends of one packet every slot holds it. -/
theorem read_of_ringAfter_replicate {p : Packet} {s t : State} (h : ringAfter (List.replicate s.chainLen p) s t)
    (he : s.trkEn = true) (hl : 1 ≤ s.chainLen) (hlt : t.chainLen = s.chainLen) {a : Nat} (ha : a < s.chainLen) :
    Memory.read t.buf a = some p := by
  obtain ⟨-, hhead⟩ := ringWhole_of_ringAfter h he
  obtain ⟨-, hview⟩ := ringView_of_ringAfter h he hl List.length_replicate hlt
  obtain ⟨-, hread⟩ := ringView_eq_some_iff.1 hview
  obtain ⟨k, hk, rfl⟩ := exists_phys_eq (hlt ▸ ha) hhead
  calc readPosition t k = (List.replicate s.chainLen p).reverse[k]? := (hread k hk).symm
    _ = some p := by rw [List.reverse_replicate, List.getElem?_replicate, if_pos (hlt ▸ hk)]

/-! ## RESTORE_STATE -/

/-- A sequence of any length but L is refused. -/
theorem exec_restoreState_refused {ps : List Packet} {s : State} (hc : s.constructed = true)
    (hlen : ps.length ≠ s.chainLen) : exec (.restoreState ps) s = .refused .misSizedSequence := by
  change execRestoreState ps s = _
  rw [execRestoreState, whenConstructed_of hc, if_neg hlen]

/-- RESTORE_STATE of L packets is their batch, far end first, and its answer. -/
theorem exec_restoreState_of_sendBatch {ps : List Packet} {s t : State} (hc : s.constructed = true)
    (hlen : ps.length = s.chainLen) (h : sendBatch ps.reverse s = .next t) :
    exec (.restoreState ps) s = .next (t.respond .done) := by
  change execRestoreState ps s = _
  rw [execRestoreState, whenConstructed_of hc, if_pos hlen, h, andThen_next]
  rfl

/-- Settles O23: RESTORE_STATE is a batch, whose count L does not wrap, so that its one latch follows. -/
theorem restoreStateRule : Obligations.RestoreStateRule := by
  unfold Obligations.RestoreStateRule
  intro s ps hc
  refine ⟨exec_restoreState_refused hc, exec_restoreState_eq, fun hlen hr hu hwidth => ?_⟩
  have ⟨_, _, hl, _⟩ := hr
  have hsome : ps.reverse ≠ [] := List.ne_nil_of_length_pos (by rw [List.length_reverse, hlen]; exact hl)
  obtain ⟨t, ht, hring, hfields⟩ := sendBatch_sent hr hu hsome
  rw [List.length_reverse, hlen, Nat.mod_eq_of_lt hwidth] at hfields
  simp only [if_pos (show 0 < s.chainLen from hl)] at hfields
  exact ⟨_, exec_restoreState_of_sendBatch hc hlen ht, hring, congrArg (State.respond · .done) hfields⟩

/-- Settles O24: the batch sends the far end first, so newest first is the sequence itself. -/
theorem restoreThenSaveIsIdentity : Obligations.RestoreThenSaveIsIdentity := by
  unfold Obligations.RestoreThenSaveIsIdentity
  intro s ps hr he hu hlen
  have ⟨hc, _, hl, _⟩ := hr
  have hsome : ps.reverse ≠ [] := List.ne_nil_of_length_pos (by rw [List.length_reverse, hlen]; exact hl)
  obtain ⟨t, ht, hring, -⟩ := sendBatch_sent hr hu hsome
  obtain ⟨-, hframe, -⟩ := sendBatch_frame ht
  have hkept : t.constructed = s.constructed ∧ t.trkEn = s.trkEn ∧ t.chainLen = s.chainLen := by
    rw [hframe]
    exact ⟨rfl, rfl, rfl⟩
  obtain ⟨hct, het, hlt⟩ := hkept
  have hsave := exec_saveState_of_ringAfter (t := t.respond .done) hring he hl (by rw [List.length_reverse, hlen]) hlt
    (hct.trans hc) (het.trans he)
  rw [List.reverse_reverse] at hsave
  exact ⟨_, exec_restoreState_of_sendBatch hc hlen ht, hsave⟩

/-! ## Runs of SEND_PACKETs -/

/-- How many latches a SEND_PACKET of `n` repetitions gives: one under auto-update, unless the count has wrapped to 0
(42_chain_controller.md R124, R128). -/
def latchesOfSend (s : State) (n : Nat) : Nat := if s.autoUpdate = true ∧ 0 < n % 2 ^ s.cfg.countW then 1 else 0

/-- What completed SEND_PACKETs of `ps` leave that a next one, or a look at the ring, depends on, with the number of
latches they gave. -/
structure SentRun (ps : List Packet) (pulses : Nat) (s t : State) : Prop where
  ring : ringAfter ps s t
  canSend : t.canSend
  cfg : t.cfg = s.cfg
  chainLen : t.chainLen = s.chainLen
  trkEn : t.trkEn = s.trkEn
  autoUpdate : t.autoUpdate = s.autoUpdate
  latched : latches t = latches s + pulses

/-- Nothing sent. -/
theorem SentRun.nil {s : State} (hs : s.canSend) : SentRun [] 0 s s := by
  have ⟨⟨_, _, _, hw⟩, _⟩ := hs
  exact ⟨ringAfter_nil hw rfl rfl rfl, hs, rfl, rfl, rfl, rfl, rfl⟩

/-- One run of sends after another. -/
theorem SentRun.append {ps qs : List Packet} {m n : Nat} {s t u : State} (h1 : SentRun ps m s t)
    (h2 : SentRun qs n t u) : SentRun (ps ++ qs) (m + n) s u where
  ring := ringAfter_append h1.ring h2.ring h1.chainLen (h2.chainLen.trans h1.chainLen) h1.trkEn
  canSend := h2.canSend
  cfg := h2.cfg.trans h1.cfg
  chainLen := h2.chainLen.trans h1.chainLen
  trkEn := h2.trkEn.trans h1.trkEn
  autoUpdate := h2.autoUpdate.trans h1.autoUpdate
  latched := by rw [h2.latched, h1.latched, Nat.add_assoc]

/-- Packets on the wire are no latches. -/
theorem count_latch_wireOf (ps : List Packet) : (wireOf ps).count .latch = 0 := by
  simp [wireOf, List.count_eq_zero]

/-- A send gives the latches that `latchesOfSend` says, with and without auto-update. -/
theorem sendRepeated_latches {p : Packet} {n : Nat} {s t : State} (hs : s.canSend) (hn : n ≠ 0)
    (h : sendRepeated p n s = .next t) : latches t = latches s + latchesOfSend s n := by
  obtain ⟨hr, hi⟩ := hs
  cases ha : s.autoUpdate with
  | true =>
    obtain ⟨t', ht', -, hfields⟩ := sendRepeated_auto (p := p) hr hn ha (hi ha)
    obtain rfl : t = t' := Host.Outcome.next.inj (h.symm.trans ht')
    rw [latches, hfields, List.count_append, List.count_append, count_latch_wireOf, latchesOfSend, latches]
    by_cases hpos : 0 < n % 2 ^ s.cfg.countW <;> simp [ha, hpos]
  | false =>
    obtain ⟨t', ht', hfields, -⟩ := sendRepeated_manual (p := p) hr hn ha
    obtain rfl : t = t' := Host.Outcome.next.inj (h.symm.trans ht')
    rw [latches, hfields, List.count_append, count_latch_wireOf, latchesOfSend, latches]
    simp [ha]

/-- A SEND_PACKET that can send completes as a run of its repetitions. -/
theorem exec_sendPacket_run {p : Packet} {n : Nat} {s : State} (hs : s.canSend) (hn : n ≠ 0) :
    ∃ t, exec (.sendPacket p n) s = .next t ∧ SentRun (List.replicate n p) (latchesOfSend s n) s t := by
  have ⟨⟨hc, _⟩, _⟩ := hs
  obtain ⟨t, ht, -, hring⟩ := sendRepeated_chain (p := p) hs hn
  have hlatched := sendRepeated_latches hs hn ht
  have hframe := sendRepeated_frame ht
  have hnext : t.canSend := canSend_of_sendFrame hs hframe hring
  obtain ⟨hfields, -⟩ := hframe
  have hkept : t.cfg = s.cfg ∧ t.chainLen = s.chainLen ∧ t.trkEn = s.trkEn ∧ t.autoUpdate = s.autoUpdate := by
    rw [hfields]
    exact ⟨rfl, rfl, rfl, rfl⟩
  obtain ⟨hcfg, hlen, htrk, hauto⟩ := hkept
  refine ⟨t.respond .done, ?_, hring, hnext, hcfg, hlen, htrk, hauto, hlatched⟩
  change execSendPacket p n s = _
  rw [execSendPacket, whenConstructed_of hc, ht, andThen_next]
  rfl

/-- SEND_PACKETs of one packet each complete as one run, each with the latches of one. -/
theorem runAll_sendPacket_run (ps : List Packet) {s : State} (hs : s.canSend) :
    ∃ t, runAll (ps.map fun p => .sendPacket p 1) s = .next t ∧ SentRun ps (ps.length * latchesOfSend s 1) s t := by
  induction ps generalizing s with
  | nil => exact ⟨s, rfl, by simpa using SentRun.nil hs⟩
  | cons p ps ih =>
    obtain ⟨u, hu, hrun⟩ := exec_sendPacket_run (p := p) hs one_ne_zero
    obtain ⟨t, ht, hrest⟩ := ih hrun.canSend
    have hsame : latchesOfSend u 1 = latchesOfSend s 1 := by
      rw [latchesOfSend, latchesOfSend, hrun.autoUpdate, hrun.cfg]
    have hpulses : (p :: ps).length * latchesOfSend s 1 = latchesOfSend s 1 + ps.length * latchesOfSend u 1 := by
      rw [List.length_cons, Nat.succ_mul, Nat.add_comm, hsame]
    exact ⟨t, (runAll_cons hu).trans ht, hpulses ▸ hrun.append hrest⟩

/-- After a run of L packets with tracking on, SAVE_STATE answers them newest first. -/
theorem SentRun.exec_saveState {ps : List Packet} {n : Nat} {s t : State} (h : SentRun ps n s t) (he : s.trkEn = true)
    (hps : ps.length = s.chainLen) :
    exec .saveState t = .next { t with response := ⟨.ok, .seq ps.reverse⟩ } := by
  have ⟨⟨hc, _, hl, _⟩, _⟩ := h.canSend
  exact exec_saveState_of_ringAfter h.ring he (h.chainLen ▸ hl) hps h.chainLen hc (h.trkEn.trans he)

/-- Settles O25: L SEND_PACKETs are a run of L packets. -/
theorem saveAfterSends : Obligations.SaveAfterSends := by
  unfold Obligations.SaveAfterSends
  intro s ps hr he hi hps
  obtain ⟨t, ht, hrun⟩ := runAll_sendPacket_run ps ⟨hr, hi⟩
  exact ⟨t, ht, hrun.exec_saveState he hps⟩

/-- Settles O26: both ways are runs of the same L packets, which fixes the ring; they differ in their latches. -/
theorem broadcastEquivalence : Obligations.BroadcastEquivalence := by
  unfold Obligations.BroadcastEquivalence
  intro s p hr he hi hwidth
  have ⟨_, _, hl, _⟩ := hr
  have hlen : (List.replicate s.chainLen p).length = s.chainLen := List.length_replicate
  obtain ⟨t, ht, hall⟩ := exec_sendPacket_run (p := p) ⟨hr, hi⟩ (show s.chainLen ≠ 0 by omega)
  obtain ⟨u, hu, heach⟩ := runAll_sendPacket_run (List.replicate s.chainLen p) ⟨hr, hi⟩
  rw [List.map_replicate] at hu
  obtain ⟨hhead, hbuf⟩ := ringAfter_unique hall.ring heach.ring hall.chainLen heach.chainLen
  have hsave := hall.exec_saveState he hlen
  have hsave' := heach.exec_saveState he hlen
  rw [List.reverse_replicate] at hsave hsave'
  refine ⟨t, u, ht, hu, hhead, hbuf, fun a ha => read_of_ringAfter_replicate hall.ring he hl hall.chainLen ha,
    hsave, hsave', fun ha => ?_⟩
  have hone : ∀ n, 1 ≤ n → n ≤ s.chainLen → latchesOfSend s n = 1 := by
    intro n h1 hn
    rw [latchesOfSend, Nat.mod_eq_of_lt (hn.trans_lt hwidth), if_pos ⟨ha, h1⟩]
  constructor
  · rw [hall.latched, hone _ hl le_rfl]
  · rw [heach.latched, hlen, hone 1 le_rfl hl, Nat.mul_one]

end Sys2Proof.Machine

/-! The controller's settings and its update cycle (42_chain_controller.md R117 to R125): each operation's answer behind
the guard, one lemma per case. -/

namespace Sys2Proof.Machine

/-! ## The pins and the flags -/

/-- SETUP3 assigns three pins and configures them. -/
theorem exec_setup3 {s : State} (hc : s.constructed = true) (d c l : PinId) :
    exec (.setup3 d c l) s = .next (((s.setPins d c l false).pushCalls
      [.configurePin d true, .configurePin c true, .configurePin l true]).respond .done) :=
  whenConstructed_of hc _

/-- SETUP4 assigns four pins and configures them. -/
theorem exec_setup4 {s : State} (hc : s.constructed = true) (d c l e : PinId) :
    exec (.setup4 d c l e) s = .next ((((s.setPins d c l true).setPinNoe e).pushCalls
      [.configurePin d true, .configurePin c true, .configurePin l true, .configurePin e true]).respond .done) :=
  whenConstructed_of hc _

/-- Settles O30: the assignments and the calls are the fields of the next state. -/
theorem setup3Rule : Obligations.Setup3Rule := by
  unfold Obligations.Setup3Rule
  exact fun s d c l hc => exec_setup3 hc d c l

/-- Settles O31: as for SETUP3, and no line is driven. -/
theorem setup4Rule : Obligations.Setup4Rule := by
  unfold Obligations.Setup4Rule
  exact fun s d c l e hc => exec_setup4 hc d c l e

/-- SET_AUTO sets the flag and nothing else. -/
theorem exec_setAuto {s : State} (hc : s.constructed = true) (b : Bool) :
    exec (.setAuto b) s = .next ((s.setAuto b).respond .done) := whenConstructed_of hc _

/-- Settles O32: GET_AUTO only answers, and SET_AUTO sets one field. -/
theorem autoUpdateFlag : Obligations.AutoUpdateFlag := by
  unfold Obligations.AutoUpdateFlag
  exact fun s b hc => ⟨whenConstructed_finish hc _, exec_setAuto hc b⟩

/-- SET_ENABLED drives the not-enable line where there is one. -/
theorem exec_setEnabled {s : State} (hc : s.constructed = true) (active : Bool) :
    exec (.setEnabled active) s = .next ((if s.hasNoe then driveNotEnable active s else s).respond .done) :=
  whenConstructed_of hc _

/-- Settles O33: the two clauses are the two cases of `has_noe`. -/
theorem setEnabledRule : Obligations.SetEnabledRule := by
  unfold Obligations.SetEnabledRule
  refine fun s active hc => ⟨fun hnoe => ?_, fun hnoe => ?_⟩
  · rw [exec_setEnabled hc, if_pos hnoe]
    rfl
  · rw [exec_setEnabled hc, if_neg (by simp [hnoe])]
    rfl

/-! ## The update cycle -/

/-- From Idle BEGIN_UPDATE opens a cycle with nothing counted. -/
theorem exec_beginUpdate_idle {s : State} (hc : s.constructed = true) (hu : s.updState = .idle) :
    exec .beginUpdate s = .next { s with updState := .updating, sentCount := 0, response := .done } := by
  change execBeginUpdate s = _
  rw [execBeginUpdate, whenConstructed_of hc, openCycle_idle hu]
  rfl

/-- While Updating BEGIN_UPDATE is refused. -/
theorem exec_beginUpdate_updating {s : State} (hc : s.constructed = true) (hu : s.updState = .updating) :
    exec .beginUpdate s = .refused .nestedUpdate := by
  change execBeginUpdate s = _
  rw [execBeginUpdate, whenConstructed_of hc, openCycle_updating hu, andThen_refused]

/-- Settles O34: the two states of the update cycle. -/
theorem beginUpdateRule : Obligations.BeginUpdateRule := by
  unfold Obligations.BeginUpdateRule
  exact fun s hc => ⟨exec_beginUpdate_idle hc, exec_beginUpdate_updating hc⟩

/-- While Updating END_UPDATE goes to Idle with at most one latch, and answers the count. -/
theorem exec_endUpdate_updating {s : State} (hc : s.constructed = true) (hu : s.updState = .updating) :
    exec .endUpdate s = .next (((if 0 < s.sentCount then latchPulse s else s).setUpd .idle).respond
      (.success (.count s.sentCount))) := by
  change execEndUpdate s = _
  rw [execEndUpdate, whenConstructed_of hc, closeCycle_updating hu, andThen_next, finish_eq]

/-- When something was counted END_UPDATE latches. -/
theorem exec_endUpdate_latches {s : State} (hc : s.constructed = true) (hu : s.updState = .updating)
    (hpos : 0 < s.sentCount) :
    exec .endUpdate s = .next { s with
      updState := .idle, trace := s.trace ++ [.latch], pinCalls := s.pinCalls ++ latchCalls s, out := s.sh,
      response := ⟨.ok, .count s.sentCount⟩ } := by
  rw [exec_endUpdate_updating hc hu, if_pos hpos]
  rfl

/-- When nothing was counted END_UPDATE only goes to Idle. -/
theorem exec_endUpdate_empty {s : State} (hc : s.constructed = true) (hu : s.updState = .updating)
    (hzero : s.sentCount = 0) :
    exec .endUpdate s = .next { s with updState := .idle, response := ⟨.ok, .count 0⟩ } := by
  have hcount : Result.count s.sentCount = .count 0 := congrArg _ hzero
  rw [exec_endUpdate_updating hc hu, if_neg hzero.not_gt, hcount]
  rfl

/-- While Idle END_UPDATE is refused. -/
theorem exec_endUpdate_idle {s : State} (hc : s.constructed = true) (hu : s.updState = .idle) :
    exec .endUpdate s = .refused .endWithoutBegin := by
  change execEndUpdate s = _
  rw [execEndUpdate, whenConstructed_of hc, closeCycle_idle hu, andThen_refused]

/-- Settles O35: while Updating the count decides on the latch. -/
theorem endUpdateRule : Obligations.EndUpdateRule := by
  unfold Obligations.EndUpdateRule
  exact fun s hc => ⟨exec_endUpdate_latches hc, exec_endUpdate_empty hc, exec_endUpdate_idle hc⟩

end Sys2Proof.Machine

/-! The controller's sends in each of their cases (42_chain_controller.md R126 to R130) and the latches that each way of
sending gives (R139). The closed forms of what a send leaves are those of its body; here they are put behind the answer
and the refusals are added. -/

namespace Sys2Proof.Machine

/-! ## TRANSMIT -/

/-- Settles O38: TRANSMIT leaves its packets' events, calls and shifts, 32 events each. -/
theorem transmitRule : Obligations.TransmitRule := by
  unfold Obligations.TransmitRule
  rintro s p n hc - -
  exact ⟨by rw [wireOf_length, List.length_replicate], fun b => rfl, exec_transmit hc⟩

/-! ## SEND_PACKET -/

/-- A send before a setup is refused. -/
theorem sendRepeated_beforeSetup {s : State} (p : Packet) (n : Nat) (hd : s.setupDone = false) :
    sendRepeated p n s = .refused .sendBeforeSetup := by
  rw [sendRepeated, if_neg (by simp [hd])]

/-- A send of no repetitions is refused. -/
theorem sendRepeated_zero {s : State} (p : Packet) (hd : s.setupDone = true) :
    sendRepeated p 0 s = .refused .zeroRepeat := by
  rw [sendRepeated, if_pos hd, if_pos rfl]

/-- Under auto-update a send inside a cycle is refused: it would open a second one. -/
theorem sendRepeated_nested {p : Packet} {n : Nat} {s : State} (hd : s.setupDone = true) (hn : n ≠ 0)
    (ha : s.autoUpdate = true) (hu : s.updState = .updating) :
    sendRepeated p n s = .refused .nestedUpdate := by
  rw [sendRepeated, if_pos hd, if_neg hn, if_pos ha, openCycle_updating hu, andThen_refused]

/-- After a NEW_CHAIN, SEND_PACKET is the send and its answer. -/
theorem exec_sendPacket_eq {s : State} (hc : s.constructed = true) (p : Packet) (n : Nat) :
    exec (.sendPacket p n) s = andThen (sendRepeated p n s) (finish .nothing) := whenConstructed_of hc _

/-- A send that is refused is a SEND_PACKET that is refused. -/
theorem exec_sendPacket_refused {p : Packet} {n : Nat} {s : State} {r : Refusal} (hc : s.constructed = true)
    (h : sendRepeated p n s = .refused r) : exec (.sendPacket p n) s = .refused r := by
  rw [exec_sendPacket_eq hc, h, andThen_refused]

/-- A send that completes is a SEND_PACKET that completes. -/
theorem exec_sendPacket_next {p : Packet} {n : Nat} {s t : State} (hc : s.constructed = true)
    (h : sendRepeated p n s = .next t) : exec (.sendPacket p n) s = .next (t.respond .done) := by
  rw [exec_sendPacket_eq hc, h, andThen_next]
  rfl

/-- Settles O39: the refusals in the order of the tests, then the send with and without a cycle of its own. -/
theorem sendPacketRule : Obligations.SendPacketRule := by
  unfold Obligations.SendPacketRule
  intro s p n hc
  refine ⟨fun hd => ?beforeSetup, fun hd hn => ?zero, fun hd hn ha hu => ?nested, fun hr hn ha => ?manual,
    fun hr hn ha hu => ?auto⟩
  case beforeSetup => exact exec_sendPacket_refused hc (sendRepeated_beforeSetup p n hd)
  case zero => exact exec_sendPacket_refused hc (hn ▸ sendRepeated_zero p hd)
  case nested => exact exec_sendPacket_refused hc (sendRepeated_nested hd hn ha hu)
  case manual =>
    obtain ⟨t, ht, hfields, hring⟩ := sendRepeated_manual (p := p) hr hn ha
    exact ⟨_, exec_sendPacket_next hc ht, hring, congrArg (State.respond · .done) hfields⟩
  case auto =>
    obtain ⟨t, ht, hring, hfields⟩ := sendRepeated_auto (p := p) hr hn ha hu
    exact ⟨_, exec_sendPacket_next hc ht, hring, congrArg (State.respond · .done) hfields⟩

/-! ## SEND_PACKETS -/

/-- A batch inside a cycle is refused. -/
theorem sendBatch_updating {s : State} (ps : List Packet) (hu : s.updState = .updating) :
    sendBatch ps s = .refused .nestedUpdate := by
  rw [sendBatch, openCycle_updating (s := s.setAuto false) hu, andThen_refused]

/-- A batch before a setup is refused at its first packet. -/
theorem sendBatch_beforeSetup {ps : List Packet} {s : State} (hu : s.updState = .idle) (hd : s.setupDone = false)
    (hps : ps ≠ []) : sendBatch ps s = .refused .sendBeforeSetup := by
  obtain ⟨p, rest, rfl⟩ := List.exists_cons_of_ne_nil hps
  have hfirst : sendRepeated p 1 (((s.setAuto false).setUpd .updating).setCount 0) = .refused .sendBeforeSetup :=
    sendRepeated_beforeSetup p 1 hd
  rw [sendBatch, openCycle_idle (s := s.setAuto false) hu, andThen_next, sendEach, hfirst, andThen_refused,
    andThen_refused]

/-- An empty batch opens a cycle and closes it with nothing counted: the count is cleared, nothing else. -/
theorem sendBatch_nil {s : State} (hu : s.updState = .idle) : sendBatch [] s = .next (s.setCount 0) := by
  have hclose : closeCycle (((s.setAuto false).setUpd .updating).setCount 0)
      = .next ((((s.setAuto false).setUpd .updating).setCount 0).setUpd .idle) := closeCycle_updating rfl
  rw [sendBatch, openCycle_idle (s := s.setAuto false) hu, andThen_next, sendEach, andThen_next, hclose, andThen_next]
  simp only [State.setAuto, State.setUpd, State.setCount, ← hu]

/-- After a NEW_CHAIN, SEND_PACKETS is the batch and its answer. -/
theorem exec_sendPackets_eq {s : State} (hc : s.constructed = true) (ps : List Packet) :
    exec (.sendPackets ps) s = andThen (sendBatch ps s) (finish .nothing) := whenConstructed_of hc _

/-- A batch that is refused is a SEND_PACKETS that is refused. -/
theorem exec_sendPackets_refused {ps : List Packet} {s : State} {r : Refusal} (hc : s.constructed = true)
    (h : sendBatch ps s = .refused r) : exec (.sendPackets ps) s = .refused r := by
  rw [exec_sendPackets_eq hc, h, andThen_refused]

/-- A batch that completes is a SEND_PACKETS that completes. -/
theorem exec_sendPackets_next {ps : List Packet} {s t : State} (hc : s.constructed = true)
    (h : sendBatch ps s = .next t) : exec (.sendPackets ps) s = .next (t.respond .done) := by
  rw [exec_sendPackets_eq hc, h, andThen_next]
  rfl

/-- Settles O40: the refusals, the empty batch, and the batch that sends. -/
theorem sendPacketsRule : Obligations.SendPacketsRule := by
  unfold Obligations.SendPacketsRule
  intro s ps hc
  refine ⟨fun hu => ?updating, fun hu hd hps => ?beforeSetup, fun hu => ?empty, fun hu hr hps => ?sends⟩
  case updating => exact exec_sendPackets_refused hc (sendBatch_updating ps hu)
  case beforeSetup => exact exec_sendPackets_refused hc (sendBatch_beforeSetup hu hd hps)
  case empty => exact exec_sendPackets_next hc (sendBatch_nil hu)
  case sends =>
    obtain ⟨t, ht, hring, hfields⟩ := sendBatch_sent hr hu hps
    exact ⟨_, exec_sendPackets_next hc ht, hring, congrArg (State.respond · .done) hfields⟩

/-! ## An explicit cycle -/

/-- Two runs one after the other. -/
theorem runAll_append (is js : List Instr) (s : State) :
    runAll (is ++ js) s = andThen (runAll is s) (runAll js) := by
  induction is generalizing s with
  | nil => rfl
  | cons i is ih =>
    rw [List.cons_append, runAll, runAll]
    cases exec i s with
    | next t => exact ih t
    | fault r => rfl
    | refused r => rfl

/-- A run of one operation is that operation. -/
theorem runAll_singleton (i : Instr) (s : State) : runAll [i] s = exec i s := by
  rw [runAll]
  cases exec i s <;> rfl

/-- What a send leaves does not look at the response port. -/
theorem Sent.respond {ps : List Packet} {c : Nat} {s t : State} (h : Sent ps c s t) (r : Response) :
    Sent ps c (s.respond r) (t.respond r) := by
  obtain ⟨hfields, hring⟩ := h
  exact ⟨congrArg (State.respond · r) hfields, ringAfter_congr hring ⟨rfl, rfl, rfl, rfl⟩ ⟨rfl, rfl, rfl⟩⟩

/-- Nothing sent. -/
theorem Sent.nil {s : State} (hw : s.trkEn = true → s.ringWhole) : Sent [] s.sentCount s s := by
  refine ⟨?_, ringAfter_nil hw rfl rfl rfl⟩
  simp [wireOf, callsOf, chainAfter]

/-- The next send after a send without auto-update completes too. -/
theorem Sent.sendReady {ps : List Packet} {c : Nat} {s t : State} (h : Sent ps c s t) (hr : s.sendReady) :
    t.sendReady := by
  have hwhole := sent_ready h
  obtain ⟨hc, hd, hl, -⟩ := hr
  obtain ⟨hfields, -⟩ := h
  rw [hfields] at hwhole ⊢
  exact ⟨hc, hd, hl, hwhole⟩

/-- SEND_PACKETs without auto-update complete, each with its repeat count, and what they leave: one list of packets
sent, and all of them counted. -/
theorem runAll_sendPacket_manual (xs : List (Packet × Nat)) {s : State} (hr : s.sendReady) (ha : s.autoUpdate = false)
    (hxs : ∀ x ∈ xs, x.2 ≠ 0) (hwidth : s.sentCount < 2 ^ s.cfg.countW) :
    ∃ t, runAll (xs.map fun x => .sendPacket x.1 x.2) s = .next t
      ∧ Sent (xs.flatMap fun x => List.replicate x.2 x.1)
          ((s.sentCount + (xs.map Prod.snd).sum) % 2 ^ s.cfg.countW) (s.respond t.response) t := by
  induction xs generalizing s with
  | nil =>
    refine ⟨s, rfl, ?_⟩
    have ⟨_, _, _, hw⟩ := hr
    rw [List.map_nil, List.sum_nil, Nat.add_zero, Nat.mod_eq_of_lt hwidth]
    exact Sent.nil hw
  | cons x xs ih =>
    have ⟨hc, _⟩ := hr
    obtain ⟨u, hu, hsent⟩ := sendRepeated_manual (p := x.1) hr (hxs x List.mem_cons_self) ha
    have ⟨hfields, _⟩ := hsent
    have hcount : u.sentCount = (s.sentCount + x.2) % 2 ^ s.cfg.countW := by rw [hfields]
    have hcfg : u.cfg = s.cfg := by rw [hfields]
    have hauto : u.autoUpdate = false := by rw [hfields]; exact ha
    obtain ⟨t, ht, hrest⟩ := ih (s := u.respond .done) (hsent.sendReady hr) hauto
      (fun y hy => hxs y (List.mem_cons_of_mem _ hy))
      (by rw [respond_sentCount, respond_cfg, hcount, hcfg]; exact Nat.mod_lt _ (Nat.two_pow_pos _))
    refine ⟨t, (runAll_cons (exec_sendPacket_next hc hu)).trans ht, ?_⟩
    have htotal : ((u.respond .done).sentCount + (xs.map Prod.snd).sum) % 2 ^ (u.respond .done).cfg.countW
        = (s.sentCount + ((x :: xs).map Prod.snd).sum) % 2 ^ s.cfg.countW := by
      rw [respond_sentCount, respond_cfg, hcount, hcfg, Nat.mod_add_mod, List.map_cons, List.sum_cons, Nat.add_assoc]
    rw [← htotal]
    exact sent_trans (hsent.respond t.response) hrest

/-- An explicit cycle around SEND_PACKETs is END_UPDATE of what the sends leave, which began at a count of 0. -/
theorem runAll_cycle (xs : List (Packet × Nat)) {s : State} (hr : s.sendReady) (ha : s.autoUpdate = false)
    (hu : s.updState = .idle) (hxs : ∀ x ∈ xs, x.2 ≠ 0) :
    ∃ t, runAll (.beginUpdate :: xs.map (fun x => .sendPacket x.1 x.2) ++ [.endUpdate]) s = exec .endUpdate t
      ∧ Sent (xs.flatMap fun x => List.replicate x.2 x.1) ((xs.map Prod.snd).sum % 2 ^ s.cfg.countW)
          { s with updState := .updating, sentCount := 0, response := t.response } t := by
  have ⟨hc, _⟩ := hr
  obtain ⟨t, ht, hsent⟩ := runAll_sendPacket_manual xs
    (s := { s with updState := .updating, sentCount := 0, response := .done }) hr ha hxs (Nat.two_pow_pos _)
  rw [Nat.zero_add] at hsent
  refine ⟨t, ?_, hsent⟩
  rw [List.cons_append, runAll_cons (exec_beginUpdate_idle hc hu), runAll_append, ht, andThen_next, runAll_singleton]

/-! ## How many latches -/

/-- Without auto-update a send gives no latch. -/
theorem latchesOfSend_manual {s : State} (n : Nat) (ha : s.autoUpdate = false) : latchesOfSend s n = 0 := by
  rw [latchesOfSend, if_neg (by simp [ha])]

/-- Under auto-update a send whose count does not wrap gives one latch. -/
theorem latchesOfSend_auto {s : State} {n : Nat} (ha : s.autoUpdate = true) (hn : 1 ≤ n)
    (hwidth : n < 2 ^ s.cfg.countW) : latchesOfSend s n = 1 := by
  rw [latchesOfSend, Nat.mod_eq_of_lt hwidth, if_pos ⟨ha, hn⟩]

/-- SEND_ALL gives the latches of one send of L repetitions. -/
theorem exec_sendAll_latches {p : Packet} {s : State} (hs : s.canSend) :
    ∃ t, exec (.sendAll p) s = .next t ∧ latches t = latches s + latchesOfSend s s.chainLen := by
  have ⟨⟨_, _, hl, _⟩, _⟩ := hs
  obtain ⟨t, ht, hrun⟩ := exec_sendPacket_run (p := p) hs (show s.chainLen ≠ 0 by omega)
  exact ⟨t, ht, hrun.latched⟩

/-- A batch of packets whose count does not wrap gives one latch. -/
theorem exec_sendPackets_latches {ps : List Packet} {s : State} (hr : s.sendReady) (hu : s.updState = .idle)
    (hps : ps ≠ []) (hwidth : ps.length < 2 ^ s.cfg.countW) :
    ∃ t, exec (.sendPackets ps) s = .next t ∧ latches t = latches s + 1 := by
  have ⟨hc, _⟩ := hr
  obtain ⟨t, ht, -, hfields⟩ := sendBatch_sent hr hu hps
  refine ⟨_, exec_sendPackets_next hc ht, ?_⟩
  have htrace : t.trace = s.trace ++ wireOf ps ++ [.latch] := by
    rw [hfields, Nat.mod_eq_of_lt hwidth, if_pos (List.length_pos_of_ne_nil hps)]
  rw [latches, respond_trace, htrace, List.count_append, List.count_append, count_latch_wireOf]
  rfl

/-- An explicit cycle around packets whose count does not wrap gives one latch. -/
theorem runAll_cycle_latches {ps : List Packet} {s : State} (hr : s.sendReady) (ha : s.autoUpdate = false)
    (hu : s.updState = .idle) (hps : ps ≠ []) (hwidth : ps.length < 2 ^ s.cfg.countW) :
    ∃ t, runAll (.beginUpdate :: ps.map (fun q => .sendPacket q 1) ++ [.endUpdate]) s = .next t
      ∧ latches t = latches s + 1 := by
  have ⟨hc, _⟩ := hr
  obtain ⟨u, hrun, hfields, -⟩ := runAll_cycle (ps.map fun q => (q, 1)) hr ha hu (by simp)
  have hsum : ((ps.map fun q => (q, 1)).map Prod.snd).sum = ps.length := by simp [Function.comp_def]
  have hsends : ((ps.map fun q => (q, 1)).flatMap fun x => List.replicate x.2 x.1) = ps := by
    simp [List.flatMap_map]
  rw [hsum, Nat.mod_eq_of_lt hwidth, hsends] at hfields
  rw [List.map_map] at hrun
  have hcu : u.constructed = true := by rw [hfields]; exact hc
  have hupd : u.updState = .updating := by rw [hfields]
  have hpos : 0 < u.sentCount := by rw [hfields]; exact List.length_pos_of_ne_nil hps
  refine ⟨_, hrun.trans (exec_endUpdate_latches hcu hupd hpos), ?_⟩
  have htrace : u.trace = s.trace ++ wireOf ps := by rw [hfields]
  rw [latches, List.count_append, htrace, List.count_append, count_latch_wireOf]
  rfl

/-- Settles O43: each way of sending with its number of latches; none of the counts wraps. -/
theorem latchCounts : Obligations.LatchCounts := by
  unfold Obligations.LatchCounts
  intro s p n ps qs hr hn hps hpsw hqs hlw
  have ⟨_, _, hl, _⟩ := hr
  have hpos : 1 ≤ ps.length := List.length_pos_of_ne_nil hps
  refine ⟨fun ha hu => ⟨?autoEach, ?autoAll⟩, fun ha => ⟨?manualOne, ?manualAll⟩, fun ha hu => ?cycle,
    fun hu => ⟨?batch, ?restore⟩⟩
  case autoEach =>
    obtain ⟨t, ht, hrun⟩ := runAll_sendPacket_run ps ⟨hr, fun _ => hu⟩
    exact ⟨t, ht, by rw [hrun.latched, latchesOfSend_auto ha le_rfl (hpos.trans_lt hpsw), Nat.mul_one]⟩
  case autoAll =>
    obtain ⟨t, ht, hlatched⟩ := exec_sendAll_latches (p := p) ⟨hr, fun _ => hu⟩
    exact ⟨t, ht, by rw [hlatched, latchesOfSend_auto ha hl hlw]⟩
  case manualOne =>
    obtain ⟨t, ht, hrun⟩ := exec_sendPacket_run (p := p) ⟨hr, by simp [ha]⟩ hn
    exact ⟨t, ht, by rw [hrun.latched, latchesOfSend_manual n ha, Nat.add_zero]⟩
  case manualAll =>
    obtain ⟨t, ht, hlatched⟩ := exec_sendAll_latches (p := p) ⟨hr, by simp [ha]⟩
    exact ⟨t, ht, by rw [hlatched, latchesOfSend_manual _ ha, Nat.add_zero]⟩
  case cycle => exact runAll_cycle_latches hr ha hu hps hpsw
  case batch => exact exec_sendPackets_latches hr hu hps hpsw
  case restore =>
    have hlen : qs.reverse.length = s.chainLen := by rw [List.length_reverse, hqs]
    rw [exec_restoreState_eq hqs]
    exact exec_sendPackets_latches hr hu (List.ne_nil_of_length_pos (hlen ▸ hl)) (hlen ▸ hlw)

end Sys2Proof.Machine

/-! The port (30_encoding.md): packet words and commands decode to what they were made from (R60, R63, R74, R76), what
the builders can return (A.3), and what a step makes of what stands first at the port (R70, R75; losses of power,
70_reset_and_hazards.md section 2). -/

namespace Sys2Proof.Machine

/-! ## Packet words -/

/-- Mode flag 0: the format of R60. -/
theorem decodePacket_of_modePwm {w : Packet} (h : modeOf w = modePwm) :
    decodePacket w = .pktPwm (slice w unusedAt 1) (slice w ch2At 10) (slice w ch1At 10) (slice w ch0At 10) := if_pos h

/-- Mode flag 1: the format of R63. -/
theorem decodePacket_of_not_modePwm {w : Packet} (h : modeOf w ≠ modePwm) :
    decodePacket w = .pktCorr (slice w unusedAt 1) (slice w atb1At 1) (slice w atb0At 1) (slice w pad27At 1)
      (slice w correct2At 7) (slice w pad19At 3) (slice w correct1At 7) (slice w pad9At 1) (slice w clockModeAt 2)
      (slice w correct0At 7) := if_neg h

/-- The three fields of a PWM word are its PWM view. -/
theorem pwmView_pwmWord (u : BitVec 1) (c2 c1 c0 : BitVec 10) : pwmView (pwmWord u c2 c1 c0) = ⟨c0, c1, c2⟩ := by
  rw [pwmView, PwmFields.mk.injEq]
  refine ⟨slice_eq ?_, slice_eq ?_, slice_eq ?_⟩ <;> rw [pwmWord_toNat]
  · simp only [ch0At]; omega
  · simp only [ch1At]; omega
  · simp only [ch2At]; omega

theorem modeOf_pwmWord (u : BitVec 1) (c2 c1 c0 : BitVec 10) : modeOf (pwmWord u c2 c1 c0) = modePwm :=
  slice_eq (by rw [pwmWord_toNat]; simp only [modeBit, modePwm, BitVec.toNat_ofNat]; omega)

/-- A PWM word is the format of R60 with its own fields. -/
theorem decodePacket_pwmWord (u : BitVec 1) (c2 c1 c0 : BitVec 10) :
    decodePacket (pwmWord u c2 c1 c0) = .pktPwm u c2 c1 c0 := by
  have hunused : slice (pwmWord u c2 c1 c0) unusedAt 1 = u :=
    slice_eq (by rw [pwmWord_toNat]; simp only [unusedAt]; omega)
  have hview := pwmView_pwmWord u c2 c1 c0
  rw [pwmView, PwmFields.mk.injEq] at hview
  obtain ⟨h0, h1, h2⟩ := hview
  rw [decodePacket_of_modePwm (modeOf_pwmWord u c2 c1 c0), hunused, h2, h1, h0]

section CorrWord
variable (u t1 t0 p27 : BitVec 1) (c2 : BitVec 7) (p19 : BitVec 3) (c1 : BitVec 7) (p9 : BitVec 1) (m : BitVec 2)
  (c0 : BitVec 7)

/-- The six fields of a correction word are its correction view. -/
theorem corrView_corrWord :
    corrView (corrWord u t1 t0 p27 c2 p19 c1 p9 m c0) = ⟨c0, c1, c2, m, t0, t1⟩ := by
  rw [corrView, CorrFields.mk.injEq]
  refine ⟨slice_eq ?c0, slice_eq ?c1, slice_eq ?c2, slice_eq ?m, slice_eq ?t0, slice_eq ?t1⟩ <;> rw [corrWord_toNat]
  case c0 => simp only [correct0At]; omega
  case c1 => simp only [correct1At]; omega
  case c2 => simp only [correct2At]; omega
  case m => simp only [clockModeAt]; omega
  case t0 => simp only [atb0At]; omega
  case t1 => simp only [atb1At]; omega

theorem modeOf_corrWord : modeOf (corrWord u t1 t0 p27 c2 p19 c1 p9 m c0) = modeCorr :=
  slice_eq (by rw [corrWord_toNat]; simp only [modeBit, modeCorr, BitVec.toNat_ofNat]; omega)

/-- A correction word is the format of R63 with its own fields and pads. -/
theorem decodePacket_corrWord :
    decodePacket (corrWord u t1 t0 p27 c2 p19 c1 p9 m c0) = .pktCorr u t1 t0 p27 c2 p19 c1 p9 m c0 := by
  have hmode : modeOf (corrWord u t1 t0 p27 c2 p19 c1 p9 m c0) ≠ modePwm := by rw [modeOf_corrWord]; decide
  have hunused : slice (corrWord u t1 t0 p27 c2 p19 c1 p9 m c0) unusedAt 1 = u :=
    slice_eq (by rw [corrWord_toNat]; simp only [unusedAt]; omega)
  have hpad27 : slice (corrWord u t1 t0 p27 c2 p19 c1 p9 m c0) pad27At 1 = p27 :=
    slice_eq (by rw [corrWord_toNat]; simp only [pad27At]; omega)
  have hpad19 : slice (corrWord u t1 t0 p27 c2 p19 c1 p9 m c0) pad19At 3 = p19 :=
    slice_eq (by rw [corrWord_toNat]; simp only [pad19At]; omega)
  have hpad9 : slice (corrWord u t1 t0 p27 c2 p19 c1 p9 m c0) pad9At 1 = p9 :=
    slice_eq (by rw [corrWord_toNat]; simp only [pad9At]; omega)
  have hview := corrView_corrWord u t1 t0 p27 c2 p19 c1 p9 m c0
  rw [corrView, CorrFields.mk.injEq] at hview
  obtain ⟨h0, h1, h2, hm, ht0, ht1⟩ := hview
  rw [decodePacket_of_not_modePwm hmode, hunused, ht1, ht0, hpad27, h2, hpad19, h1, hpad9, hm, h0]

end CorrWord

/-- DECODE reads a PWM word as its fields. -/
theorem selectView_pwmWord (u : BitVec 1) (c2 c1 c0 : BitVec 10) :
    selectView (pwmWord u c2 c1 c0) = .pwm ⟨c0, c1, c2⟩ := by
  rw [selectView_of_modePwm (modeOf_pwmWord u c2 c1 c0), pwmView_pwmWord]

/-- DECODE reads a correction word as its fields; the unused bit and the pads are not reported. -/
theorem selectView_corrWord (u t1 t0 p27 : BitVec 1) (c2 : BitVec 7) (p19 : BitVec 3) (c1 : BitVec 7) (p9 : BitVec 1)
    (m : BitVec 2) (c0 : BitVec 7) :
    selectView (corrWord u t1 t0 p27 c2 p19 c1 p9 m c0) = .corr ⟨c0, c1, c2, m, t0, t1⟩ := by
  rw [selectView_of_modeCorr (modeOf_corrWord u t1 t0 p27 c2 p19 c1 p9 m c0), corrView_corrWord]

/-- Settles O6: a word in a format is read as the fields of that format. -/
theorem packetRowsAnswerTheirFields : Obligations.PacketRowsAnswerTheirFields := by
  unfold Obligations.PacketRowsAnswerTheirFields
  constructor
  · intro s u c2 c1 c0 hc
    rw [← selectView_pwmWord u]
    exact whenConstructed_finish hc _
  · intro s u t1 t0 p27 c2 p19 c1 p9 m c0 hc
    rw [← selectView_corrWord u t1 t0 p27 c2 p19 c1 p9 m c0]
    exact whenConstructed_finish hc _

/-- A packet word put to the codec is answered as DECODE of it, in either format and before a NEW_CHAIN too: the slices
that the format names are those that the view takes. -/
theorem exec_decodePacket (w : Packet) (s : State) : exec (decodePacket w) s = exec (.decodeView w) s := by
  by_cases h : modeOf w = modePwm
  · rw [decodePacket_of_modePwm h]
    change execPktPwm _ _ _ _ s = execDecode w s
    rw [execPktPwm, selectView_pwmWord, execDecode, selectView_of_modePwm h, pwmView]
  · rw [decodePacket_of_not_modePwm h]
    change execPktCorr _ _ _ _ _ _ _ _ _ _ s = execDecode w s
    rw [execPktCorr, selectView_corrWord, execDecode, selectView, if_neg h, corrView]

/-! ## Decoding what the encoder presents -/

theorem inFits_iff {cfg : Config} {v : Nat} : cfg.inFits v = true ↔ v < 2 ^ cfg.inW := by
  rw [Config.inFits, decide_eq_true_iff]

theorem idxFits_iff {cfg : Config} {v : Nat} : cfg.idxFits v = true ↔ v < 2 ^ cfg.idxW.bits := by
  rw [Config.idxFits, decide_eq_true_iff]

/-- Settles O50: the packet formats by their words, the operations by their codes, each operand port read back as it was
put. -/
theorem decodeOfEncode : Obligations.DecodeOfEncode := by
  unfold Obligations.DecodeOfEncode
  intro cfg i hwf
  cases i with
  | pktPwm u c2 c1 c0 => exact congrArg _ (decodePacket_pwmWord u c2 c1 c0)
  | pktCorr u t1 t0 p27 c2 p19 c1 p9 m c0 => exact congrArg _ (decodePacket_corrWord u t1 t0 p27 c2 p19 c1 p9 m c0)
  | buildPwm a b c | sendPwm a b c =>
    simp only [Instr.wf, Bool.and_eq_true, inFits_iff] at hwf
    obtain ⟨⟨ha, hb⟩, hc⟩ := hwf
    rw [encode, decode_command cfg _ (by decide)]
    simp [decodeOp, getNat_putNat, getNat_putNat', ha, hb, hc, orTruncated]
  | buildCorr a b c m | sendCorr a b c m =>
    simp only [Instr.wf, Bool.and_eq_true, inFits_iff] at hwf
    obtain ⟨⟨⟨ha, hb⟩, hc⟩, hm⟩ := hwf
    rw [encode, decode_command cfg _ (by decide)]
    simp [decodeOp, getNat_putNat, getNat_putNat', ha, hb, hc, hm, orTruncated]
  | rawValue p | modeOf p | pwmView p | corrView p | decodeView p | trkWrite p | sendAll p =>
    rw [encode, decode_command cfg _ (by decide)]
    simp [decodeOp, getPacket_put', orTruncated]
  | setTracking b | setAuto b | setEnabled b =>
    rw [encode, decode_command cfg _ (by decide)]
    simp [decodeOp, getBool_put, orTruncated]
  | getState k =>
    rw [encode, decode_command cfg _ (by decide)]
    simp [decodeOp, getNat_putNat' _ k (idxFits_iff.1 hwf), orTruncated]
  | saveState | getAuto | beginUpdate | endUpdate => exact decode_command cfg _ (by decide) []
  | restoreState ps | sendPackets ps =>
    rw [encode, decode_command cfg _ (by decide)]
    simp [decodeOp, getSeq_put cfg ps (idxFits_iff.1 hwf), orTruncated]
  | newChain n b =>
    rw [encode, decode_command cfg _ (by decide)]
    simp [decodeOp, getNat_putNat _ n _ (idxFits_iff.1 hwf), getBool_put, orTruncated]
  | setup3 d c l => exact decode_pinCommand cfg _ (by decide) [d, c, l]
  | setup4 d c l e => exact decode_pinCommand cfg _ (by decide) [d, c, l, e]
  | transmit p n | sendPacket p n =>
    rw [encode, decode_command cfg _ (by decide)]
    simp [decodeOp, getPacket_put, getNat_putNat' _ n (idxFits_iff.1 hwf), orTruncated]

/-- Settles O51: each sample word is decoded by evaluation. -/
theorem sampleWordsDecode : Obligations.SampleWordsDecode := by
  unfold Obligations.SampleWordsDecode
  decide


/-! ## What the builders can return -/

/-- What BUILD_PWM returns has none of the bits that building again clears. -/
theorem buildPwm_and_mask (a b c : Nat) : buildPwm a b c &&& 0x3FFFFFFF#32 = buildPwm a b c := by
  have h := buildPwm_pwmView (buildPwm a b c)
  rw [pwmView_buildPwm] at h
  simpa only [buildPwm, trunc_of_toNat] using h.symm

/-- What BUILD_CORR returns has none of the bits that building again clears, and the mode flag set. -/
theorem buildCorr_and_mask (c0 c1 c2 m : Nat) :
    (buildCorr c0 c1 c2 m &&& 0x07F1FDFF#32) ||| 0x40000000#32 = buildCorr c0 c1 c2 m := by
  have h := buildCorr_corrView (buildCorr c0 c1 c2 m)
  rw [corrView_buildCorr] at h
  simpa only [buildCorr, trunc_of_toNat] using h.symm

/-- BUILD_PWM of some operands returns the packet exactly when bits 31 and 30 are 0. -/
theorem exists_buildPwm_iff (p : Packet) : (∃ a b c, buildPwm a b c = p) ↔ p &&& 0xC0000000#32 = 0#32 := by
  constructor
  · rintro ⟨a, b, c, rfl⟩
    rw [← buildPwm_and_mask, BitVec.and_assoc]
    exact BitVec.and_zero
  · intro h
    refine ⟨_, _, _, (buildPwm_pwmView p).trans ?_⟩
    rw [← BitVec.or_zero (x := p &&& 0x3FFFFFFF#32)]
    exact and_not_or_eq_self h

/-- BUILD_CORR of some operands returns the packet exactly when the unused bit, the pads and the test bits are 0 and the
mode flag is 1. -/
theorem exists_buildCorr_iff (p : Packet) :
    (∃ c0 c1 c2 m, buildCorr c0 c1 c2 m = p) ↔ p &&& 0xF80E0200#32 = 0x40000000#32 := by
  constructor
  · rintro ⟨c0, c1, c2, m, rfl⟩
    have hclear : ∀ q : Packet, q &&& 0x07F1FDFF#32 &&& 0xF80E0200#32 = 0#32 := fun q => by
      rw [BitVec.and_assoc]
      exact BitVec.and_zero
    rw [← buildCorr_and_mask, BitVec.and_or_distrib_right, hclear]
    rfl
  · intro h
    exact ⟨_, _, _, _, (buildCorr_corrView p).trans (and_not_or_eq_self h)⟩

/-- Two answers on one state agree exactly when their results do. -/
theorem next_packet_inj {s : State} {p q : Packet} :
    Host.Outcome.next (φ := Fault) (ρ := Refusal) { s with response := ⟨.ok, .packet q⟩ }
      = .next { s with response := ⟨.ok, .packet p⟩ } ↔ q = p := by
  simp

/-- Settles O11: building again from its view gives a packet back exactly when the bits a builder fixes are as it fixes
them. -/
theorem canonicalPackets : Obligations.CanonicalPackets := by
  unfold Obligations.CanonicalPackets
  intro s p hc
  simp only [exec_buildPwm hc, exec_buildCorr hc, next_packet_inj]
  exact ⟨exists_buildPwm_iff p, exists_buildCorr_iff p⟩

/-! ## What a step makes of what stands first at the port -/

/-- What decodes is performed, unless it is one of the two internal operations. -/
theorem step_operation {s : State} {p : Presented} {i : Instr} {rest : List Stimulus}
    (hport : s.port = .operation p :: rest) (hdec : decode s.cfg p = .ok i) :
    step s = if i.internal then .refused .internalOp else exec i (s.setPort rest) := by
  rw [step, hport]
  change perform p (s.setPort rest) = _
  rw [perform, setPort_cfg, hdec]

/-- What does not decode is refused. -/
theorem step_undecoded {s : State} {p : Presented} {e : DecodeError} {rest : List Stimulus}
    (hport : s.port = .operation p :: rest) (hdec : decode s.cfg p = .error e) :
    step s = .refused (portRefusal e) := by
  rw [step, hport]
  change perform p (s.setPort rest) = _
  rw [perform, setPort_cfg, hdec]

theorem step_chainPowerLoss {s : State} {rest : List Stimulus} (hport : s.port = .chainPowerLoss :: rest) :
    step s = .next (loseChain (s.setPort rest)) := by
  rw [step, hport]
  rfl

theorem step_blockPowerLoss {s : State} {rest : List Stimulus} (hport : s.port = .blockPowerLoss :: rest) :
    step s = .next (losePower (s.setPort rest)) := by
  rw [step, hport]
  rfl

/-- All that a step can do when it answers a next state: nothing, a loss of power, or one operation of the caller's. -/
theorem step_eq_next {s t : State} (h : step s = .next t) :
    (s.port = [] ∧ t = s)
    ∨ (∃ rest, s.port = .chainPowerLoss :: rest ∧ t = loseChain (s.setPort rest))
    ∨ (∃ rest, s.port = .blockPowerLoss :: rest ∧ t = losePower (s.setPort rest))
    ∨ ∃ p rest i, s.port = .operation p :: rest ∧ decode s.cfg p = .ok i ∧ exec i (s.setPort rest) = .next t := by
  match hport : s.port with
  | [] =>
    rw [step, hport] at h
    exact .inl ⟨rfl, (Host.Outcome.next.inj h).symm⟩
  | .chainPowerLoss :: rest =>
    rw [step_chainPowerLoss hport] at h
    exact .inr (.inl ⟨rest, rfl, (Host.Outcome.next.inj h).symm⟩)
  | .blockPowerLoss :: rest =>
    rw [step_blockPowerLoss hport] at h
    exact .inr (.inr (.inl ⟨rest, rfl, (Host.Outcome.next.inj h).symm⟩))
  | .operation p :: rest =>
    refine .inr (.inr (.inr ⟨p, rest, ?_⟩))
    cases hdec : decode s.cfg p with
    | error e =>
      rw [step_undecoded hport hdec] at h
      cases h
    | ok i =>
      rw [step_operation hport hdec] at h
      split at h
      · cases h
      · exact ⟨i, rfl, rfl, h⟩

/-- Settles O49: an empty port is the first case of the step. -/
theorem nothingPresentedNothingHappens : Obligations.NothingPresentedNothingHappens := by
  unfold Obligations.NothingPresentedNothingHappens
  intro s hport
  rw [step, hport]

/-- Settles O48: the presented operation is not an internal one. -/
theorem stepRunsPresentedOperation : Obligations.StepRunsPresentedOperation := by
  unfold Obligations.StepRunsPresentedOperation
  intro s p i rest hport hdec hint
  rw [step_operation hport hdec, if_neg (by simp [hint])]
  rfl

/-- Settles O7: a packet word decodes to the row of its format, which answers as DECODE does. -/
theorem packetWordIsDecoded : Obligations.PacketWordIsDecoded := by
  unfold Obligations.PacketWordIsDecoded
  intro s w rest hport
  have hint : (decodePacket w).internal = false := by rw [decodePacket]; split <;> rfl
  rw [step_operation hport rfl, if_neg (by simp [hint]), exec_decodePacket]
  rfl

/-- The codes that select no operation (30_encoding.md R75). -/
theorem decode_reserved {cfg : Config} {code : Nat} (h : code ∈ [0x07, 0x0D, 0x0E, 0x0F, 0x1E, 0x1F]) (bs : List Byte)
    (pins : List PinId) :
    decode cfg (.command (BitVec.ofNat 8 code :: bs) pins) = .error (.reservedOp (BitVec.ofNat 5 code)) := by
  simp only [List.mem_cons, List.not_mem_nil, or_false] at h
  rcases h with rfl | rfl | rfl | rfl | rfl | rfl <;> rfl

/-- Settles O47: the reserved codes do not decode, and what decodes to an internal operation is not performed. -/
theorem portRefusesReservedAndInternal : Obligations.PortRefusesReservedAndInternal := by
  unfold Obligations.PortRefusesReservedAndInternal
  constructor
  · intro s code bs pins rest hcode hport
    exact step_undecoded hport (decode_reserved hcode bs pins)
  · intro s p i rest hport hdec hint
    rw [step_operation hport hdec, if_pos hint]

/-- Settles O46: every meaning but that of NEW_CHAIN stands behind the guard. -/
theorem beforeResetRefused : Obligations.BeforeResetRefused := by
  unfold Obligations.BeforeResetRefused
  intro s i hc hi
  cases i with
  | newChain n b => exact absurd rfl (hi n b)
  | _ => exact whenConstructed_not hc _

/-- Settles O60: the loss draws as many unknown registers as there are; a block without power has no NEW_CHAIN behind
it. -/
theorem lossOfPower : Obligations.LossOfPower := by
  unfold Obligations.LossOfPower
  refine fun s rest => ⟨fun hport => ?chips, fun hport => ?block⟩
  case chips =>
    refine ⟨_, step_chainPowerLoss hport, rfl, ?_, ?_⟩
    · simp [loseChain, unknownShift]
    · simp [loseChain, unknownOut]
  case block =>
    exact ⟨_, step_blockPowerLoss hport, rfl, rfl, rfl, rfl, fun i hi => beforeResetRefused _ i rfl hi⟩

/-! ## What decodes to NEW_CHAIN -/

theorem orTruncated_eq_ok {o : Option Instr} {i : Instr} : orTruncated o = .ok i ↔ o = some i := by
  cases o <;> simp [orTruncated]

/-- A port of `w` bits gives a number of `w` bits. -/
theorem getNat_lt {w v : Nat} {bs rest : List Byte} (h : getNat w bs = some (v, rest)) : v < 2 ^ w := by
  unfold getNat at h
  split at h
  · cases h
  · cases h
    exact Nat.mod_lt _ (Nat.two_pow_pos w)

/-- The length of a NEW_CHAIN comes from a port of `IDX_W` bits. -/
theorem decode_newChain_fits {cfg : Config} {p : Presented} {n : Nat} {b : Bool}
    (h : decode cfg p = .ok (.newChain n b)) : n < 2 ^ cfg.idxW.bits := by
  match p with
  | .packet w =>
    have h : decodePacket w = .newChain n b := by simpa [decode] using h
    rw [decodePacket] at h
    split at h <;> cases h
  | .command [] pins => cases h
  | .command (c :: bs) pins =>
    rw [decode] at h
    unfold decodeOp at h
    -- of the codes only 0x10 gives a NEW_CHAIN
    split at h <;> simp [orTruncated_eq_ok, Option.bind_eq_some_iff] at h
    obtain ⟨rest, hn, -⟩ := h
    exact getNat_lt hn

end Sys2Proof.Machine

/-! What a completing operation has done, said once (`exec_eq_next`), and reduced to the updates that effects are
made of (`StepClosed`): an invariant of operations is shown for each update once. -/

namespace Sys2Proof.Machine

/-! ## Relations that hold across every effect -/

/-- A relation between states that holds across each update that operations other than NEW_CHAIN are made of, and so
across any number of them. -/
structure StepClosed (R : State → State → Prop) : Prop where
  refl : ∀ s, R s s
  trans : ∀ {s t u}, R s t → R t u → R s u
  respond : ∀ s r, R s (s.respond r)
  wire : ∀ p s, R s (transmitOne p s)
  count : ∀ s, R s (countOne s)
  write : ∀ {p s t}, writeRing p s = .next t → R s t
  opens : ∀ s, R s ((s.setUpd .updating).setCount 0)
  latch : ∀ s, R s (latchPulse s)
  closes : ∀ s, R s (s.setUpd .idle)
  auto : ∀ s b, R s (s.setAuto b)
  track : ∀ s e, (e = true → s.trkAlloc = true) → R s (s.setTrk s.trkAlloc e)
  allocate : ∀ s, s.constructed = true → s.trkAlloc = false → R s ((allocateRing s).setTrk true true)
  pins : ∀ s d c l b, s.constructed = true → R s (s.setPins d c l b)
  pinNoe : ∀ s e, R s (s.setPinNoe e)
  calls : ∀ s cs, R s (s.pushCalls cs)
  enable : ∀ s b, R s (driveNotEnable b s)

namespace StepClosed
variable {R : State → State → Prop}

/-- Across TRANSMIT, by its repetitions. -/
theorem transmit (hR : StepClosed R) (p : Packet) (n : Nat) (s : State) : R s (transmit p n s) := by
  induction n generalizing s with
  | zero => exact hR.refl s
  | succ n ih => exact hR.trans (hR.wire p s) (ih _)

/-- Across the recording of a send, by its repetitions. -/
theorem recordSent (hR : StepClosed R) {p : Packet} {n : Nat} {s t : State} (h : recordSent p n s = .next t) :
    R s t := by
  induction n generalizing s with
  | zero => cases h; exact hR.refl _
  | succ n ih =>
    obtain ⟨u, hu, ht⟩ := andThen_eq_next h
    exact hR.trans (hR.count s) (hR.trans (hR.write hu) (ih ht))

theorem sendBody (hR : StepClosed R) {p : Packet} {n : Nat} {s t : State} (h : sendBody p n s = .next t) : R s t :=
  hR.trans (hR.transmit p n s) (hR.recordSent h)

theorem openCycle (hR : StepClosed R) {s t : State} (h : openCycle s = .next t) : R s t := by
  obtain ⟨-, rfl⟩ := openCycle_eq_next h
  exact hR.opens s

theorem closeCycle (hR : StepClosed R) {s t : State} (h : closeCycle s = .next t) : R s t := by
  obtain ⟨-, rfl⟩ := closeCycle_eq_next h
  split
  · exact hR.trans (hR.latch s) (hR.closes _)
  · exact hR.closes s

/-- Across a send, with or without a cycle of its own. -/
theorem sendRepeated (hR : StepClosed R) {p : Packet} {n : Nat} {s t : State} (h : sendRepeated p n s = .next t) :
    R s t := by
  unfold Machine.sendRepeated at h
  split at h
  · split at h
    · cases h
    · split at h
      · obtain ⟨a, ha, h⟩ := andThen_eq_next h
        obtain ⟨b, hb, hz⟩ := andThen_eq_next h
        exact hR.trans (hR.openCycle ha) (hR.trans (hR.sendBody hb) (hR.closeCycle hz))
      · exact hR.sendBody h
  · cases h

theorem sendEach (hR : StepClosed R) {ps : List Packet} {s t : State} (h : sendEach ps s = .next t) : R s t := by
  induction ps generalizing s with
  | nil => cases h; exact hR.refl _
  | cons p ps ih =>
    obtain ⟨u, hu, h⟩ := andThen_eq_next h
    exact hR.trans (hR.sendRepeated hu) (ih h)

/-- Across a batch, auto-update set aside and put back. -/
theorem sendBatch (hR : StepClosed R) {ps : List Packet} {s t : State} (h : sendBatch ps s = .next t) : R s t := by
  obtain ⟨a, ha, h⟩ := andThen_eq_next h
  obtain ⟨b, hb, h⟩ := andThen_eq_next h
  obtain ⟨c, hc, h⟩ := andThen_eq_next h
  cases h
  exact hR.trans (hR.auto s false) (hR.trans (hR.openCycle ha) (hR.trans (hR.sendEach hb)
    (hR.trans (hR.closeCycle hc) (hR.auto c _))))

end StepClosed

/-! ## What a completing operation has done -/

/-- A latch pulse adds its calls and its event, and the outputs adopt the shift registers. -/
theorem latchPulse_eq (s : State) : latchPulse s =
    { s with pinCalls := s.pinCalls ++ latchCalls s, trace := s.trace ++ [.latch], out := s.sh } := rfl

/-- The operations that change nothing but the response: the codec's, GET_AUTO, GET_STATE and SAVE_STATE. -/
def onlyAnswers : Instr → Bool
  | .getAuto | .getState _ | .saveState => true
  | i => isCodec i

/-- What an operation other than NEW_CHAIN has done when it completes. -/
inductive Effect (s : State) : Instr → State → Prop where
  | answer {i} (hi : onlyAnswers i = true) (r : Response) : Effect s i (s.respond r)
  /-- SET_TRACKING without an allocation: tracking is on only over an allocated ring. -/
  | track (b e : Bool) (r : Response) (h : e = true → s.trkAlloc = true) :
      Effect s (.setTracking b) ((s.setTrk s.trkAlloc e).respond r)
  | allocate (h : s.trkAlloc = false) (r : Response) :
      Effect s (.setTracking true) (((allocateRing s).setTrk true true).respond r)
  | ringWrite {p u} (h : writeRing p s = .next u) : Effect s (.trkWrite p) (u.respond .done)
  | pins3 (d c l : PinId) (calls : List PinCall) :
      Effect s (.setup3 d c l) (((s.setPins d c l false).pushCalls calls).respond .done)
  | pins4 (d c l e : PinId) (calls : List PinCall) :
      Effect s (.setup4 d c l e) ((((s.setPins d c l true).setPinNoe e).pushCalls calls).respond .done)
  | auto (b : Bool) : Effect s (.setAuto b) ((s.setAuto b).respond .done)
  | enable (active : Bool) :
      Effect s (.setEnabled active) ((if s.hasNoe then driveNotEnable active s else s).respond .done)
  | begins (h : s.updState = .idle) : Effect s .beginUpdate (((s.setUpd .updating).setCount 0).respond .done)
  | ends (h : s.updState = .updating) (r : Response) :
      Effect s .endUpdate (((if 0 < s.sentCount then latchPulse s else s).setUpd .idle).respond r)
  | wire (p : Packet) (n : Nat) : Effect s (.transmit p n) ((transmit p n s).respond .done)
  /-- SEND_PACKET and its shorthands. -/
  | send {i p n u} (hi : sendsOne i = true) (hp : packetsOf s.chainLen i = List.replicate n p)
      (h : sendRepeated p n s = .next u) : Effect s i (u.respond .done)
  /-- SEND_PACKETS and RESTORE_STATE. -/
  | batch {i ps u} (hi : i = .sendPackets ps ∨ i = .restoreState ps.reverse)
      (h : sendBatch ps s = .next u) : Effect s i (u.respond .done)

/-- SET_TRACKING that completes has allocated, or has only set `trk_en`. -/
theorem effect_setTracking {b : Bool} {s t : State} (h : execSetTracking b s = .next t) :
    Effect s (.setTracking b) t := by
  obtain ⟨-, h⟩ := whenConstructed_eq_next h
  cases b with
  | false =>
    cases h
    exact .track _ _ _ nofun
  | true =>
    simp only [if_true] at h
    split at h
    · rename_i ha
      cases h
      simpa only [ha] using Effect.track true true (.success (.bool true)) fun _ => ha
    · rename_i ha
      split at h
      · cases h
        exact .track _ _ _ nofun
      · cases h
        exact .allocate (by simpa using ha) _

/-- GET_STATE that completes has only answered. -/
theorem effect_getState {k : Nat} {s t : State} (h : execGetState k s = .next t) : Effect s (.getState k) t := by
  obtain ⟨-, h⟩ := whenConstructed_eq_next h
  split at h
  · cases h
    exact .answer rfl _
  · split at h
    · cases h
      exact .answer rfl _
    · cases h

/-- SAVE_STATE that completes has only answered. -/
theorem effect_saveState {s t : State} (h : execSaveState s = .next t) : Effect s .saveState t := by
  obtain ⟨-, h⟩ := whenConstructed_eq_next h
  split at h
  · cases h
    exact .answer rfl _
  · split at h
    · cases h
      exact .answer rfl _
    · cases h

/-- RESTORE_STATE that completes has sent its batch. -/
theorem effect_restoreState {ps : List Packet} {s t : State} (h : execRestoreState ps s = .next t) :
    Effect s (.restoreState ps) t := by
  obtain ⟨-, h⟩ := whenConstructed_eq_next h
  split at h
  · obtain ⟨u, hu, h⟩ := andThen_eq_next h
    cases h
    exact .batch (.inr (by rw [List.reverse_reverse])) hu
  · cases h

/-- An operation made of a shared one and its answer completes only through that one. -/
theorem whenConstructed_andThen_finish {o : Host.Outcome State Fault Refusal} {r : Result} {s t : State}
    (h : whenConstructed s (andThen o (finish r)) = .next t) : ∃ u, o = .next u ∧ t = u.respond (.success r) := by
  obtain ⟨-, h⟩ := whenConstructed_eq_next h
  obtain ⟨u, hu, h⟩ := andThen_eq_next h
  exact ⟨u, hu, (Host.Outcome.next.inj h).symm⟩

/-- What NEW_CHAIN has done when it completes. -/
theorem exec_newChain_eq_next {n : Nat} {b : Bool} {s t : State} (h : exec (.newChain n b) s = .next t) :
    n ≠ 0 ∧ t = (construct n b s).respond .done := by
  change execNewChain n b s = _ at h
  unfold execNewChain at h
  split at h
  · cases h
  · rename_i hn
    exact ⟨hn, (Host.Outcome.next.inj h).symm⟩

/-- All that an operation other than NEW_CHAIN can do when it completes: it stands behind a NEW_CHAIN and has its
effect. -/
theorem exec_eq_next {i : Instr} {s t : State} (hi : ∀ n b, i ≠ .newChain n b) (h : exec i s = .next t) :
    s.constructed = true ∧ Effect s i t := by
  have hc : s.constructed = true := by
    by_contra hc
    rw [beforeResetRefused s i (by simpa using hc) hi] at h
    cases h
  refine ⟨hc, ?_⟩
  cases i with
  | newChain n b => exact absurd rfl (hi n b)
  | pktPwm | pktCorr | buildPwm | buildCorr | rawValue | modeOf | pwmView | corrView | decodeView | getAuto =>
    obtain ⟨-, rfl⟩ := whenConstructed_finish_eq_next h
    exact .answer rfl _
  | setTracking b => exact effect_setTracking h
  | getState k => exact effect_getState h
  | saveState => exact effect_saveState h
  | restoreState ps => exact effect_restoreState h
  | trkWrite p =>
    obtain ⟨u, hu, rfl⟩ := whenConstructed_andThen_finish h
    exact .ringWrite hu
  | setup3 d c l =>
    obtain ⟨-, rfl⟩ := whenConstructed_finish_eq_next h
    exact .pins3 d c l _
  | setup4 d c l e =>
    obtain ⟨-, rfl⟩ := whenConstructed_finish_eq_next h
    exact .pins4 d c l e _
  | setAuto b =>
    obtain ⟨-, rfl⟩ := whenConstructed_finish_eq_next h
    exact .auto b
  | setEnabled active =>
    obtain ⟨-, rfl⟩ := whenConstructed_finish_eq_next h
    exact .enable active
  | beginUpdate =>
    obtain ⟨u, hu, rfl⟩ := whenConstructed_andThen_finish h
    obtain ⟨hidle, rfl⟩ := openCycle_eq_next hu
    exact .begins hidle
  | endUpdate =>
    obtain ⟨u, hu, rfl⟩ := whenConstructed_andThen_finish h
    obtain ⟨hupd, rfl⟩ := closeCycle_eq_next hu
    exact .ends hupd _
  | transmit p n =>
    obtain ⟨-, rfl⟩ := whenConstructed_finish_eq_next h
    exact .wire p n
  | sendPackets ps =>
    obtain ⟨u, hu, rfl⟩ := whenConstructed_andThen_finish h
    exact .batch (.inl rfl) hu
  | sendPacket | sendAll | sendPwm | sendCorr =>
    obtain ⟨u, hu, rfl⟩ := whenConstructed_andThen_finish h
    exact .send rfl rfl hu

/-- A relation that holds across each update holds across every operation other than NEW_CHAIN that completes. -/
theorem StepClosed.of_exec {R : State → State → Prop} (hR : StepClosed R) {i : Instr} {s t : State}
    (hi : ∀ n b, i ≠ .newChain n b) (hex : exec i s = .next t) : R s t := by
  obtain ⟨hc, he⟩ := exec_eq_next hi hex
  have hanswer : ∀ {u r}, R s u → R s (u.respond r) := fun hu => hR.trans hu (hR.respond _ _)
  cases he with
  | answer hi r => exact hR.respond s r
  | track b e r h => exact hanswer (hR.track s e h)
  | allocate h r => exact hanswer (hR.allocate s hc h)
  | ringWrite h => exact hanswer (hR.write h)
  | pins3 d c l calls => exact hanswer (hR.trans (hR.pins s d c l false hc) (hR.calls _ _))
  | pins4 d c l e calls =>
    exact hanswer (hR.trans (hR.trans (hR.pins s d c l true hc) (hR.pinNoe _ e)) (hR.calls _ _))
  | auto b => exact hanswer (hR.auto s b)
  | enable active =>
    refine hanswer ?_
    split
    · exact hR.enable s active
    · exact hR.refl s
  | begins h => exact hanswer (hR.opens s)
  | ends h r => exact hanswer (hR.closeCycle (closeCycle_updating h))
  | wire p n => exact hanswer (hR.transmit p n s)
  | send hi hp h => exact hanswer (hR.sendRepeated h)
  | batch hi h => exact hanswer (hR.sendBatch h)

end Sys2Proof.Machine

/-! What every operation and every step keeps (10_state.md sections 2 to 6): each invariant is shown across the updates
that operations are made of. -/

namespace Sys2Proof.Machine

/-! ## The legal states -/

/-- A ring write of a legal state leaves it legal. -/
theorem wf_of_writeRing {p : Packet} {s t : State} (h : writeRing p s = .next t) (hs : s.wf) : t.wf := by
  rcases writeRing_eq_next h with ⟨-, rfl⟩ | ⟨he, m, hm, rfl⟩
  · exact hs
  · obtain ⟨hlen, hcount, htrk, hring, -, hnoe, hsetup⟩ := hs
    have halloc := htrk he
    obtain ⟨hc, hwhole⟩ := hring halloc
    obtain ⟨hl, -⟩ := hlen hc
    exact ⟨hlen, hcount, htrk, fun _ => ⟨hc, ringWhole_setRing_nextHead hl hwhole hm⟩,
      fun hoff => absurd halloc (by simpa using hoff), hnoe, hsetup⟩

/-- The legal states are kept: the count by its modulus, the ring by its writes, the pins by standing behind a
NEW_CHAIN. -/
theorem stepClosed_wf : StepClosed fun s t => s.wf → t.wf where
  refl _ := id
  trans h1 h2 := h2 ∘ h1
  respond _ _ := id
  wire p s := by rw [transmitOne_eq]; exact id
  count _ := fun ⟨hlen, _, hrest⟩ => ⟨hlen, Nat.mod_lt _ (Nat.two_pow_pos _), hrest⟩
  write := wf_of_writeRing
  opens _ := fun ⟨hlen, _, hrest⟩ => ⟨hlen, Nat.two_pow_pos _, hrest⟩
  latch _ := by rw [latchPulse_eq]; exact id
  closes _ := id
  auto _ _ := id
  track _ _ h := fun ⟨hlen, hcount, _, hrest⟩ => ⟨hlen, hcount, h, hrest⟩
  allocate _ hc _ := fun ⟨hlen, hcount, _, _, _, hrest⟩ =>
    ⟨hlen, hcount, fun _ => rfl, fun _ => ⟨hc, Memory.allocate_keys _ _, le_rfl⟩, nofun, hrest⟩
  pins _ _ _ _ _ hc := fun ⟨hlen, hcount, htrk, hring, hnone, _, _⟩ =>
    ⟨hlen, hcount, htrk, hring, hnone, fun _ => rfl, fun _ => hc⟩
  pinNoe _ _ := id
  calls _ _ := id
  enable _ _ := id

/-- NEW_CHAIN of a length within its width gives a legal state. -/
theorem wf_construct {n : Nat} (b : Bool) {s : State} (hn : n ≠ 0) (hfits : n < 2 ^ s.cfg.idxW.bits) :
    ((construct n b s).respond .done).wf :=
  ⟨fun _ => ⟨Nat.one_le_iff_ne_zero.2 hn, hfits⟩, Nat.mod_lt _ (Nat.two_pow_pos _), nofun, nofun, fun _ => rfl, nofun,
    nofun⟩

/-- A block without power is in a legal state: nothing is said of one before a NEW_CHAIN. -/
theorem wf_losePower (s : State) : (losePower s).wf :=
  ⟨nofun, Nat.two_pow_pos _, nofun, nofun, fun _ => rfl, nofun, nofun⟩

theorem loseChain_buf (s : State) : (loseChain s).buf = s.buf := rfl
theorem loseChain_trace (s : State) : (loseChain s).trace = s.trace := rfl
theorem loseChain_pinCalls (s : State) : (loseChain s).pinCalls = s.pinCalls := rfl

/-- The legal states do not speak of the chips. -/
theorem wf_loseChain {s : State} (hs : s.wf) : (loseChain s).wf := by
  unfold loseChain
  generalize unknownShift s.draws s.sh.length = sh
  generalize unknownOut s.draws s.out.length = out
  exact hs

/-- Settles O53: each effect keeps the legal states, and the length of a NEW_CHAIN comes through a port of its width. -/
theorem stepKeepsLegalState : Obligations.StepKeepsLegalState := by
  unfold Obligations.StepKeepsLegalState
  intro s t hs h
  rcases step_eq_next h with ⟨-, rfl⟩ | ⟨rest, -, rfl⟩ | ⟨rest, -, rfl⟩ | ⟨p, rest, i, -, hdec, hex⟩
  · exact hs
  · exact wf_loseChain (s := s.setPort rest) hs
  · exact wf_losePower _
  · by_cases hi : ∃ n b, i = .newChain n b
    · obtain ⟨n, b, rfl⟩ := hi
      obtain ⟨hn, rfl⟩ := exec_newChain_eq_next hex
      exact wf_construct b hn (decode_newChain_fits hdec)
    · exact stepClosed_wf.of_exec (fun n b h => hi ⟨n, b, h⟩) hex hs

/-! ## The ring once written -/

/-- An allocated ring with its head at a slot: something has been written (10_state.md R16). -/
abbrev State.ringWritten (s : State) : Prop := s.trkAlloc = true ∧ s.ringWhole ∧ s.head < s.chainLen

/-- A write never moves the head to the sentinel. -/
theorem ringWritten_of_writeRing {p : Packet} {s t : State} (h : writeRing p s = .next t) (hs : s.ringWritten) :
    t.ringWritten := by
  rcases writeRing_eq_next h with ⟨-, rfl⟩ | ⟨-, m, hm, rfl⟩
  · exact hs
  · obtain ⟨halloc, hwhole, hhead⟩ := hs
    have hl : 1 ≤ s.chainLen := Nat.one_le_of_lt hhead
    exact ⟨halloc, ringWhole_setRing_nextHead hl hwhole hm, nextHead_lt hl hhead.le⟩

/-- A written ring stays one: an allocation, which would move the head to the sentinel, does not happen twice. -/
theorem stepClosed_ringWritten : StepClosed fun s t => s.ringWritten → t.ringWritten where
  refl _ := id
  trans h1 h2 := h2 ∘ h1
  respond _ _ := id
  wire p s := by rw [transmitOne_eq]; exact id
  count _ := id
  write := ringWritten_of_writeRing
  opens _ := id
  latch _ := by rw [latchPulse_eq]; exact id
  closes _ := id
  auto _ _ := id
  track _ _ _ := id
  allocate _ _ hoff := fun ⟨halloc, _⟩ => absurd halloc (by simp [hoff])
  pins _ _ _ _ _ _ := id
  pinNoe _ _ := id
  calls _ _ := id
  enable _ _ := id

/-- Settles O22: a legal state has a whole ring once it is allocated, and a written one stays so. -/
theorem headNeverReturnsToSentinel : Obligations.HeadNeverReturnsToSentinel := by
  unfold Obligations.HeadNeverReturnsToSentinel
  intro s t i hs halloc hhead hi hex
  obtain ⟨-, -, -, hring, -, -, -⟩ := hs
  obtain ⟨-, hwhole⟩ := hring halloc
  obtain ⟨halloc', hwhole', hhead'⟩ := stepClosed_ringWritten.of_exec hi hex ⟨halloc, hwhole, hhead⟩
  exact ⟨halloc', hhead', hwhole'⟩

/-! ## The canonical form of the ring memory -/

/-- A ring write keeps the slots there are, and so their order. -/
theorem memory_wf_of_writeRing {p : Packet} {s t : State} (h : writeRing p s = .next t)
    (hs : Memory.wf s.buf = true) : Memory.wf t.buf = true := by
  rcases writeRing_eq_next h with ⟨-, rfl⟩ | ⟨-, m, hm, rfl⟩
  · exact hs
  · exact Memory.wf_write hm hs

theorem stepClosed_memory_wf : StepClosed fun s t => Memory.wf s.buf = true → Memory.wf t.buf = true where
  refl _ := id
  trans h1 h2 := h2 ∘ h1
  respond _ _ := id
  wire p s := by rw [transmitOne_eq]; exact id
  count _ := id
  write := memory_wf_of_writeRing
  opens _ := id
  latch _ := by rw [latchPulse_eq]; exact id
  closes _ := id
  auto _ _ := id
  track _ _ _ := id
  allocate _ _ _ := fun _ => Memory.wf_allocate _ _
  pins _ _ _ _ _ _ := id
  pinNoe _ _ := id
  calls _ _ := id
  enable _ _ := id

/-- Settles O55: every effect keeps the canonical form, and a reset or a loss of the block's power leaves no slot. -/
theorem stepKeepsMemoryCanonical : Obligations.StepKeepsMemoryCanonical := by
  unfold Obligations.StepKeepsMemoryCanonical
  intro s t hs h
  rcases step_eq_next h with ⟨-, rfl⟩ | ⟨rest, -, rfl⟩ | ⟨rest, -, rfl⟩ | ⟨p, rest, i, -, -, hex⟩
  · exact hs
  · rwa [loseChain_buf]
  · exact Memory.wf_nil
  · by_cases hi : ∃ n b, i = .newChain n b
    · obtain ⟨n, b, rfl⟩ := hi
      obtain ⟨-, rfl⟩ := exec_newChain_eq_next hex
      exact Memory.wf_nil
    · exact stepClosed_memory_wf.of_exec (fun n b h => hi ⟨n, b, h⟩) hex hs

/-! ## The parameters and the chain length -/

/-- What no operation but NEW_CHAIN sets. -/
def sameChain (s t : State) : Prop := t.cfg = s.cfg ∧ t.chainLen = s.chainLen ∧ t.constructed = s.constructed

theorem sameChain_refl (s : State) : sameChain s s := ⟨rfl, rfl, rfl⟩

theorem stepClosed_sameChain : StepClosed sameChain where
  refl := sameChain_refl
  trans := fun ⟨h1, h2, h3⟩ ⟨k1, k2, k3⟩ => ⟨k1.trans h1, k2.trans h2, k3.trans h3⟩
  respond s _ := sameChain_refl s
  wire p s := by rw [transmitOne_eq]; exact sameChain_refl s
  count := sameChain_refl
  write h := by rcases writeRing_eq_next h with ⟨-, rfl⟩ | ⟨-, m, -, rfl⟩ <;> exact sameChain_refl _
  opens := sameChain_refl
  latch := sameChain_refl
  closes := sameChain_refl
  auto s _ := sameChain_refl s
  track s _ _ := sameChain_refl s
  allocate s _ _ := sameChain_refl s
  pins s _ _ _ _ _ := sameChain_refl s
  pinNoe s _ := sameChain_refl s
  calls s _ := sameChain_refl s
  enable s _ := sameChain_refl s

/-- Settles O56: NEW_CHAIN keeps the parameters, and every other effect the chain length too. -/
theorem chainLengthIsFixed : Obligations.ChainLengthIsFixed := by
  unfold Obligations.ChainLengthIsFixed
  intro s t i hex
  by_cases hi : ∃ n b, i = .newChain n b
  · obtain ⟨n, b, rfl⟩ := hi
    obtain ⟨-, rfl⟩ := exec_newChain_eq_next hex
    exact ⟨rfl, fun hnot => absurd rfl (hnot n b)⟩
  · obtain ⟨hcfg, hlen, hcon⟩ := stepClosed_sameChain.of_exec (fun n b h => hi ⟨n, b, h⟩) hex
    exact ⟨hcfg, fun _ => ⟨hlen, hcon⟩⟩

/-! ## The update state -/

/-- Only BEGIN_UPDATE and END_UPDATE move the update state: a send closes the cycle that it opens. -/
theorem Effect.updState {i : Instr} {s t : State} (he : Effect s i t) (hb : i ≠ .beginUpdate) (hd : i ≠ .endUpdate) :
    t.updState = s.updState := by
  cases he with
  | begins h => exact absurd rfl hb
  | ends h r => exact absurd rfl hd
  | ringWrite h => rcases writeRing_eq_next h with ⟨-, rfl⟩ | ⟨-, m, -, rfl⟩ <;> rfl
  | enable active => split <;> rfl
  | wire p n => rw [transmit_eq]; rfl
  | send hi hp h =>
    obtain ⟨hfields, -⟩ := sendRepeated_frame h
    rw [hfields]
    rfl
  | batch hi h =>
    obtain ⟨-, hfields, -⟩ := sendBatch_frame h
    rw [hfields]
    rfl
  | answer | track | allocate | pins3 | pins4 | auto => rfl

/-- Settles O57: the two operations of the cycle by their own rules, every other by its effect. -/
theorem updateStateTransitions : Obligations.UpdateStateTransitions := by
  unfold Obligations.UpdateStateTransitions
  refine fun s t i hex => ⟨?begins, ?ends, fun hb hd hi => ?other⟩
  case begins =>
    rintro rfl
    obtain ⟨u, hu, rfl⟩ := whenConstructed_andThen_finish hex
    obtain ⟨hidle, rfl⟩ := openCycle_eq_next hu
    exact ⟨hidle, rfl⟩
  case ends =>
    rintro rfl
    obtain ⟨u, hu, rfl⟩ := whenConstructed_andThen_finish hex
    obtain ⟨hupd, rfl⟩ := closeCycle_eq_next hu
    exact ⟨hupd, rfl⟩
  case other =>
    obtain ⟨-, he⟩ := exec_eq_next hi hex
    exact he.updState hb hd

/-! ## The histories -/

/-- The wire trace and the record of pin calls begin with what they were. -/
def historiesGrow (s t : State) : Prop := s.trace <+: t.trace ∧ s.pinCalls <+: t.pinCalls

theorem historiesGrow_of_eq {s t : State} (htrace : t.trace = s.trace) (hcalls : t.pinCalls = s.pinCalls) :
    historiesGrow s t := ⟨htrace ▸ List.prefix_rfl, hcalls ▸ List.prefix_rfl⟩

theorem historiesGrow_refl (s : State) : historiesGrow s s := historiesGrow_of_eq rfl rfl

theorem stepClosed_historiesGrow : StepClosed historiesGrow where
  refl := historiesGrow_refl
  trans := fun ⟨h1, k1⟩ ⟨h2, k2⟩ => ⟨h1.trans h2, k1.trans k2⟩
  respond s _ := historiesGrow_refl s
  wire p s := by rw [transmitOne_eq]; exact ⟨List.prefix_append _ _, List.prefix_append _ _⟩
  count s := historiesGrow_refl s
  write h := by rcases writeRing_eq_next h with ⟨-, rfl⟩ | ⟨-, m, -, rfl⟩ <;> exact historiesGrow_refl _
  opens := historiesGrow_refl
  latch _ := ⟨List.prefix_append _ _, List.prefix_append _ _⟩
  closes := historiesGrow_refl
  auto s _ := historiesGrow_refl s
  track s _ _ := historiesGrow_refl s
  allocate s _ _ := historiesGrow_refl s
  pins s _ _ _ _ _ := historiesGrow_refl s
  pinNoe s _ := historiesGrow_refl s
  calls _ _ := ⟨List.prefix_rfl, List.prefix_append _ _⟩
  enable _ _ := ⟨List.prefix_append _ _, List.prefix_append _ _⟩

/-- Settles O59: every effect only adds, the chips' loss of power adds nothing, and the block's empties both. -/
theorem historiesOnlyGrow : Obligations.HistoriesOnlyGrow := by
  unfold Obligations.HistoriesOnlyGrow
  refine ⟨fun s t i hi hex => stepClosed_historiesGrow.of_exec hi hex, fun s t hblock hnew h => ?step,
    fun s rest hport => ⟨_, step_blockPowerLoss hport, rfl, rfl⟩⟩
  case step =>
    change historiesGrow s t
    rcases step_eq_next h with ⟨-, rfl⟩ | ⟨rest, -, rfl⟩ | ⟨rest, hport, -⟩ | ⟨p, rest, i, hport, hdec, hex⟩
    · exact historiesGrow_refl _
    · exact historiesGrow_of_eq (loseChain_trace _) (loseChain_pinCalls _)
    · exact absurd hport (hblock rest)
    · have hi : ∀ n b, i ≠ .newChain n b := fun n b hi => hnew p rest n b hport (hi ▸ hdec)
      exact stepClosed_historiesGrow.of_exec (s := s.setPort rest) hi hex

end Sys2Proof.Machine

/-! What operations send, and what they leave when they send nothing (10_state.md section 5, 42_chain_controller.md
sections 3 and 4): the ring and the chips take up exactly the packets an operation sends. -/

namespace Sys2Proof.Machine

/-! ## When a send completes -/

/-- A send that completes was not refused: it came after a setup, with repetitions, and did not nest a cycle. -/
theorem sendRepeated_completed {p : Packet} {n : Nat} {s t : State} (h : sendRepeated p n s = .next t) :
    s.setupDone = true ∧ n ≠ 0 ∧ (s.autoUpdate = true → s.updState = .idle) := by
  have hd : s.setupDone = true := by
    by_contra hd
    rw [sendRepeated_beforeSetup p n (by simpa using hd)] at h
    cases h
  have hn : n ≠ 0 := by
    rintro rfl
    rw [sendRepeated_zero p hd] at h
    cases h
  refine ⟨hd, hn, fun ha => ?_⟩
  cases hu : s.updState with
  | idle => rfl
  | updating =>
    rw [sendRepeated_nested hd hn ha hu] at h
    cases h

/-- A batch that completes was Idle, and came after a setup unless it was empty. -/
theorem sendBatch_completed {ps : List Packet} {s t : State} (h : sendBatch ps s = .next t) :
    s.updState = .idle ∧ (ps ≠ [] → s.setupDone = true) := by
  obtain ⟨hu, -⟩ := sendBatch_frame h
  refine ⟨hu, fun hps => ?_⟩
  by_contra hd
  rw [sendBatch_beforeSetup hu (by simpa using hd) hps] at h
  cases h

/-- In a legal state tracking is on only over a whole ring. -/
theorem ringWhole_of_wf {s : State} (hs : s.wf) (he : s.trkEn = true) : s.ringWhole := by
  obtain ⟨-, -, htrk, hring, -, -, -⟩ := hs
  obtain ⟨-, hwhole⟩ := hring (htrk he)
  exact hwhole

/-- A legal state after a NEW_CHAIN and a setup is ready to send. -/
theorem sendReady_of_wf {s : State} (hs : s.wf) (hc : s.constructed = true) (hd : s.setupDone = true) :
    s.sendReady := by
  have ⟨hlen, _⟩ := hs
  obtain ⟨hl, -⟩ := hlen hc
  exact ⟨hc, hd, hl, ringWhole_of_wf hs⟩

/-! ## Operations that send nothing -/

/-- What an operation leaves that sends nothing: the ring, the chips' shift registers and the wire's bits; only
END_UPDATE moves the outputs. -/
structure SentNothing (i : Instr) (s t : State) : Prop where
  head : t.head = s.head
  buf : t.buf = s.buf
  sh : t.sh = s.sh
  out : t.out = if i = .endUpdate ∧ 0 < s.sentCount then s.sh else s.out
  trace : ∃ es, t.trace = s.trace ++ es ∧ ∀ b, .shift b ∉ es

/-- An operation that leaves ring, chips and wire as they are. -/
theorem SentNothing.of_eq {i : Instr} {s t : State} (hi : i ≠ .endUpdate) (hhead : t.head = s.head)
    (hbuf : t.buf = s.buf) (hsh : t.sh = s.sh) (hout : t.out = s.out) (htrace : t.trace = s.trace) :
    SentNothing i s t :=
  ⟨hhead, hbuf, hsh, by simp [hi, hout], [], by simp [htrace], by simp⟩

/-- What only answers sends no packet. -/
theorem packetsOf_of_onlyAnswers {i : Instr} (hi : onlyAnswers i = true) (l : Nat) : packetsOf l i = [] := by
  cases i with
  | restoreState | sendPacket | sendPackets | sendAll | sendPwm | sendCorr => cases hi
  | _ => rfl

/-- Of the operations that keep the pairing, those that send no packet leave the ring and the chips alone. -/
theorem Effect.sentNothing {i : Instr} {s t : State} (he : Effect s i t) (hk : keepsPairing i = true)
    (hp : packetsOf s.chainLen i = []) : SentNothing i s t := by
  cases he with
  | answer hi r => exact .of_eq (by rintro rfl; cases hi) rfl rfl rfl rfl rfl
  | track | allocate | ringWrite | wire => cases hk
  | pins3 | pins4 | auto | begins => exact .of_eq nofun rfl rfl rfl rfl rfl
  | enable active =>
    split
    · exact ⟨rfl, rfl, rfl, rfl, [.notEnable (!active)], rfl, by simp⟩
    · exact .of_eq nofun rfl rfl rfl rfl rfl
  | ends h r =>
    split
    · rename_i hpos
      rw [latchPulse_eq]
      exact ⟨rfl, rfl, rfl, by simp [hpos], [.latch], rfl, by simp⟩
    · rename_i hzero
      exact ⟨rfl, rfl, rfl, by simp [hzero], [], by simp, by simp⟩
  | send hi hps h =>
    obtain ⟨-, hn, -⟩ := sendRepeated_completed h
    rw [hps, List.replicate_eq_nil_iff] at hp
    exact absurd hp hn
  | batch hi h =>
    rename_i ps u
    obtain rfl : ps = [] := by rcases hi with rfl | rfl <;> simpa [packetsOf] using hp
    obtain ⟨hu, -⟩ := sendBatch_completed h
    obtain rfl : s.setCount 0 = u := Host.Outcome.next.inj ((sendBatch_nil hu).symm.trans h)
    exact .of_eq (by rcases hi with rfl | rfl <;> nofun) rfl rfl rfl rfl rfl

/-- No operation that keeps the pairing is a NEW_CHAIN. -/
theorem ne_newChain_of_keepsPairing {i : Instr} (hk : keepsPairing i = true) : ∀ n b, i ≠ .newChain n b := by
  rintro n b rfl
  cases hk

/-- Settles O58: what sends nothing leaves ring and chips, and only END_UPDATE latches. -/
theorem ringWrittenOnlyBySends : Obligations.RingWrittenOnlyBySends := by
  unfold Obligations.RingWrittenOnlyBySends
  rintro s t i hk hp - hex
  obtain ⟨-, he⟩ := exec_eq_next (ne_newChain_of_keepsPairing hk) hex
  have h := he.sentNothing hk hp
  have hout := h.out
  refine ⟨h.head, h.buf, fun a => by rw [h.buf], h.sh, fun hi => ?other, fun hi => ?ends, h.trace⟩
  case other => rw [hout, if_neg fun hend => hi hend.1]
  case ends => simpa [hi] using hout

/-! ## The ring mirrors the chain -/

/-- What a run of operations leaves that has sent `ps`: the packets in the ring and in the chips. -/
structure Paired (ps : List Packet) (s t : State) : Prop where
  ring : ringAfter ps s t
  sh : t.sh = chainAfter ps s.sh
  chainLen : t.chainLen = s.chainLen
  trkEn : t.trkEn = s.trkEn

/-- No packet moves no shift register. -/
theorem chainAfter_nil (sh : List Packet) : chainAfter [] sh = sh := List.take_length

/-- One run after another. -/
theorem Paired.append {ps qs : List Packet} {s t u : State} (h1 : Paired ps s t) (h2 : Paired qs t u) :
    Paired (ps ++ qs) s u where
  ring := ringAfter_append h1.ring h2.ring h1.chainLen (h2.chainLen.trans h1.chainLen) h1.trkEn
  sh := by rw [h2.sh, h1.sh, chainAfter_append]
  chainLen := h2.chainLen.trans h1.chainLen
  trkEn := h2.trkEn.trans h1.trkEn

/-- Nothing sent. -/
theorem Paired.nil {s t : State} (hs : s.wf) (hhead : t.head = s.head) (hbuf : t.buf = s.buf) (hsh : t.sh = s.sh)
    (hlen : t.chainLen = s.chainLen) (htrk : t.trkEn = s.trkEn) : Paired [] s t :=
  ⟨ringAfter_nil (ringWhole_of_wf hs) hhead hbuf hlen, by rw [hsh, chainAfter_nil], hlen, htrk⟩

/-- Of the operations that keep the pairing none switches tracking. -/
theorem Effect.trkEn {i : Instr} {s t : State} (he : Effect s i t) (hk : keepsPairing i = true) :
    t.trkEn = s.trkEn := by
  cases he with
  | track | allocate | ringWrite | wire => cases hk
  | enable active => split <;> rfl
  | ends h r => split <;> rfl
  | send hi hp h =>
    obtain ⟨hfields, -⟩ := sendRepeated_frame h
    rw [hfields]
    rfl
  | batch hi h =>
    obtain ⟨-, hfields, -⟩ := sendBatch_frame h
    rw [hfields]
    rfl
  | answer | pins3 | pins4 | auto | begins => rfl

/-- A batch that completes in a legal state puts its packets into the ring and the chips. -/
theorem sendBatch_paired {ps : List Packet} {s t : State} (hs : s.wf) (hc : s.constructed = true)
    (h : sendBatch ps s = .next t) : ringAfter ps s t ∧ t.sh = chainAfter ps s.sh := by
  obtain ⟨hu, hd⟩ := sendBatch_completed h
  by_cases hps : ps = []
  · subst hps
    obtain rfl : s.setCount 0 = t := Host.Outcome.next.inj ((sendBatch_nil hu).symm.trans h)
    exact ⟨ringAfter_nil (ringWhole_of_wf hs) rfl rfl rfl, (chainAfter_nil _).symm⟩
  · obtain ⟨t', ht', hring, hfields⟩ := sendBatch_sent (sendReady_of_wf hs hc (hd hps)) hu hps
    obtain rfl : t = t' := Host.Outcome.next.inj (h.symm.trans ht')
    exact ⟨hring, by rw [hfields]⟩

/-- A send that completes in a legal state puts its packets into the ring and the chips. -/
theorem sendRepeated_paired {p : Packet} {n : Nat} {s t : State} (hs : s.wf) (hc : s.constructed = true)
    (h : sendRepeated p n s = .next t) :
    ringAfter (List.replicate n p) s t ∧ t.sh = chainAfter (List.replicate n p) s.sh := by
  obtain ⟨hd, hn, hi⟩ := sendRepeated_completed h
  obtain ⟨t', ht', hsh, hring⟩ := sendRepeated_chain (p := p) ⟨sendReady_of_wf hs hc hd, hi⟩ hn
  obtain rfl : t = t' := Host.Outcome.next.inj (h.symm.trans ht')
  exact ⟨hring, hsh⟩

/-- An operation that keeps the pairing puts exactly the packets it sends into the ring and the chips. -/
theorem exec_paired {i : Instr} {s t : State} (hs : s.wf) (hk : keepsPairing i = true) (hex : exec i s = .next t) :
    Paired (packetsOf s.chainLen i) s t := by
  obtain ⟨hc, he⟩ := exec_eq_next (ne_newChain_of_keepsPairing hk) hex
  obtain ⟨-, hlen, -⟩ := stepClosed_sameChain.of_exec (ne_newChain_of_keepsPairing hk) hex
  have htrk := he.trkEn hk
  by_cases hp : packetsOf s.chainLen i = []
  · have h := he.sentNothing hk hp
    rw [hp]
    exact .nil hs h.head h.buf h.sh hlen htrk
  · suffices hsent : ringAfter (packetsOf s.chainLen i) s t ∧ t.sh = chainAfter (packetsOf s.chainLen i) s.sh from
      ⟨hsent.1, hsent.2, hlen, htrk⟩
    cases he with
    | send hi hps h =>
      rw [hps]
      obtain ⟨hring, hsh⟩ := sendRepeated_paired hs hc h
      exact ⟨hring, hsh⟩
    | batch hi h =>
      rename_i ps u
      have hps : packetsOf s.chainLen i = ps := by rcases hi with rfl | rfl <;> simp [packetsOf]
      rw [hps]
      obtain ⟨hring, hsh⟩ := sendBatch_paired hs hc h
      exact ⟨hring, hsh⟩
    | answer hi r => exact absurd (packetsOf_of_onlyAnswers hi _) hp
    | track | allocate | ringWrite | wire => cases hk
    | pins3 | pins4 | auto | enable | begins | ends => exact absurd rfl hp

/-- A run of operations that keep the pairing stays legal and puts exactly the packets it sends into the ring and the
chips. -/
theorem runAll_paired {is : List Instr} {s t : State} (hs : s.wf) (hk : ∀ i ∈ is, keepsPairing i = true)
    (h : runAll is s = .next t) : Paired (is.flatMap (packetsOf s.chainLen)) s t := by
  induction is generalizing s with
  | nil =>
    cases h
    exact .nil hs rfl rfl rfl rfl rfl
  | cons i is ih =>
    obtain ⟨u, hu, h⟩ := andThen_eq_next h
    have hki : keepsPairing i = true := hk i List.mem_cons_self
    have hpair := exec_paired hs hki hu
    have hwf : u.wf := stepClosed_wf.of_exec (ne_newChain_of_keepsPairing hki) hu hs
    have hrest := ih hwf (fun j hj => hk j (List.mem_cons_of_mem _ hj)) h
    rw [hpair.chainLen] at hrest
    exact hpair.append hrest

/-- The chips nearest hold the packets sent last. -/
theorem getElem?_of_chainAfter {ps sh : List Packet} {k : Nat} {v : Packet} (h : (chainAfter ps sh)[k]? = some v)
    (hk : k < ps.length) : ps.reverse[k]? = some v := by
  rw [chainAfter, List.getElem?_take, Option.ite_none_right_eq_some] at h
  obtain ⟨-, h⟩ := h
  rwa [List.getElem?_append_left (by rwa [List.length_reverse])] at h

/-- Settles O27: ring and chips have both taken up the packets of the run, newest first. -/
theorem ringMirrorsChain : Obligations.RingMirrorsChain := by
  unfold Obligations.RingMirrorsChain
  intro s t is hs he hk h
  have hpair := runAll_paired hs hk h
  generalize is.flatMap (packetsOf s.chainLen) = ps at hpair
  have hring := hpair.ring
  rw [ringAfter, if_pos he] at hring
  obtain ⟨-, -, hread, -⟩ := hring
  have hnewest : ∀ k, k < s.chainLen → k < ps.length → readPosition t k = ps.reverse[k]? := by
    intro k hkl hkp
    rw [hread k hkl, if_pos hkp]
  refine ⟨hpair.trkEn.trans he, hpair.chainLen, fun k v hkp hkl hv => ?_, hnewest⟩
  rw [hpair.sh] at hv
  rw [hnewest k (hpair.chainLen ▸ hkl) hkp, getElem?_of_chainAfter hv hkp]

/-! ## Sends while tracking is disabled -/

/-- SEND_PACKETs leave the allocation as it is. -/
theorem runAll_sendPacket_trkAlloc {ps : List Packet} {s t : State}
    (h : runAll (ps.map fun p => .sendPacket p 1) s = .next t) : t.trkAlloc = s.trkAlloc := by
  induction ps generalizing s with
  | nil => cases h; rfl
  | cons p ps ih =>
    obtain ⟨u, hu, h⟩ := andThen_eq_next h
    obtain ⟨v, hv, rfl⟩ := whenConstructed_andThen_finish hu
    obtain ⟨hfields, -⟩ := sendRepeated_frame hv
    have halloc : v.trkAlloc = s.trkAlloc := by rw [hfields]
    exact (ih h).trans halloc

/-- Settles O28: with tracking off the sends leave the ring, and the second enable does not allocate again. -/
theorem disabledTrackerGoesStale : Obligations.DisabledTrackerGoesStale := by
  unfold Obligations.DisabledTrackerGoesStale
  intro s ps hr _ halloc hi
  have ⟨hc, hd, hl, _⟩ := hr
  have hoff : State.canSend { s with trkEn := false, response := ⟨.ok, .bool false⟩ } := ⟨⟨hc, hd, hl, nofun⟩, hi⟩
  obtain ⟨t, ht, hsh⟩ := runAll_sendPacket_chain ps hoff
  obtain ⟨t', ht', hrun⟩ := runAll_sendPacket_run ps hoff
  obtain rfl : t = t' := Host.Outcome.next.inj (ht.symm.trans ht')
  have ⟨⟨hct, _⟩, _⟩ := hrun.canSend
  have halloct : t.trkAlloc = true := (runAll_sendPacket_trkAlloc ht).trans halloc
  obtain ⟨hhead, hbuf⟩ : t.head = s.head ∧ t.buf = s.buf := hrun.ring
  refine ⟨{ t with trkEn := true, response := ⟨.ok, .bool true⟩ }, ?_, hhead, hbuf, rfl, hsh⟩
  rw [List.cons_append, runAll_cons (exec_setTracking_false hc), runAll_append, ht, andThen_next, runAll_singleton]
  exact exec_setTracking_again hct halloct

/-! ## The shorthands of SEND_PACKET -/

/-- A SEND_PACKET whose count does not wrap completes, with one latch exactly under auto-update. -/
theorem exec_sendPacket_unwrapped {p : Packet} {n : Nat} {s : State} (hs : s.canSend) (hn : n ≠ 0)
    (hwidth : n < 2 ^ s.cfg.countW) :
    ∃ t, exec (.sendPacket p n) s = .next t
      ∧ ringAfter (List.replicate n p) s t
      ∧ t = { s with sentCount := ((if s.autoUpdate then 0 else s.sentCount) + n) % 2 ^ s.cfg.countW,
                     head := t.head, buf := t.buf,
                     trace := s.trace ++ wireOf (List.replicate n p) ++ (if s.autoUpdate then [.latch] else []),
                     pinCalls := s.pinCalls ++ callsOf s (List.replicate n p)
                       ++ (if s.autoUpdate then latchCalls s else []),
                     sh := chainAfter (List.replicate n p) s.sh,
                     out := if s.autoUpdate then chainAfter (List.replicate n p) s.sh else s.out,
                     response := .done } := by
  obtain ⟨hr, hi⟩ := hs
  have ⟨hc, _⟩ := hr
  have hpos : 0 < n % 2 ^ s.cfg.countW := by
    rw [Nat.mod_eq_of_lt hwidth]
    exact Nat.pos_of_ne_zero hn
  cases ha : s.autoUpdate with
  | true =>
    obtain ⟨t, ht, hring, hfields⟩ := sendRepeated_auto (p := p) hr hn ha (hi ha)
    simp only [if_pos hpos] at hfields
    refine ⟨_, exec_sendPacket_next hc ht, hring, ?_⟩
    simpa [ha, State.respond] using congrArg (State.respond · .done) hfields
  | false =>
    obtain ⟨t, ht, hfields, hring⟩ := sendRepeated_manual (p := p) hr hn ha
    refine ⟨_, exec_sendPacket_next hc ht, hring, ?_⟩
    simpa [ha, State.respond] using congrArg (State.respond · .done) hfields

/-- Settles O42: each shorthand is one SEND_PACKET, of L repetitions or of one. -/
theorem sendShorthandsComplete : Obligations.SendShorthandsComplete := by
  unfold Obligations.SendShorthandsComplete
  intro s p a b c m hr hi hwidth
  have ⟨_, _, hl, _⟩ := hr
  have hone (q : Packet) := exec_sendPacket_unwrapped (p := q) ⟨hr, hi⟩ one_ne_zero (hl.trans_lt hwidth)
  refine ⟨buildPwm a b c, buildCorr a b c m, buildPwm_toNat a b c, buildCorr_toNat a b c m, fun x hx => ?_⟩
  simp only [List.mem_cons, List.not_mem_nil, or_false] at hx
  rcases hx with rfl | rfl | rfl
  · rw [List.length_replicate]
    exact exec_sendPacket_unwrapped ⟨hr, hi⟩ (Nat.one_le_iff_ne_zero.1 hl) hwidth
  · exact hone _
  · exact hone _

/-! ## An explicit cycle -/

/-- Settles O44: the cycle is END_UPDATE of what its sends leave, whose count began at 0. -/
theorem updateCycleCountsAndLatchesOnce : Obligations.UpdateCycleCountsAndLatchesOnce := by
  unfold Obligations.UpdateCycleCountsAndLatchesOnce
  intro s sends hr ha hu hsends
  have ⟨hc, _⟩ := hr
  obtain ⟨t, hrun, hfields, hring⟩ := runAll_cycle sends hr ha hu hsends
  generalize sends.flatMap (fun x => List.replicate x.2 x.1) = ps at hfields hring
  generalize (sends.map Prod.snd).sum % 2 ^ s.cfg.countW = count at hfields
  have hct : t.constructed = true := by rw [hfields]; exact hc
  have hut : t.updState = .updating := by rw [hfields]
  have hcount : t.sentCount = count := by rw [hfields]
  have hsh : t.sh = chainAfter ps s.sh := by rw [hfields]
  have htrace : t.trace = s.trace ++ wireOf ps := by rw [hfields]
  have hout : t.out = s.out := by rw [hfields]
  by_cases hpos : 0 < count
  · refine ⟨_, hrun.trans (exec_endUpdate_latches hct hut (hcount ▸ hpos)), ?_, rfl, hring, hsh, ?_, ?_⟩
    · rw [hcount]
    · rw [htrace, if_pos hpos]
    · rw [if_pos hpos]
  · have hzero : count = 0 := by omega
    refine ⟨_, hrun.trans (exec_endUpdate_empty hct hut (hcount.trans hzero)), ?_, rfl, hring, hsh, ?_, ?_⟩
    · rw [hzero]
    · rw [htrace, if_neg hpos, List.append_nil]
    · rw [if_neg hpos, hout]

end Sys2Proof.Machine

/-! Refusals and the reset (60_exceptions.md section 2, 10_state.md section 6): in a legal state every operation either
completes or is refused, and the closed list of R148 says which. -/

namespace Sys2Proof.Machine

/-! ## What is refused, and what completes -/

/-- The outcome is a refusal where `P` holds and a next state where it does not: in neither case a fault. -/
def refusedWhen (P : Prop) (o : Host.Outcome State Fault Refusal) : Prop :=
  (P ∧ ∃ r, o = .refused r) ∨ (¬ P ∧ ∃ t, o = .next t)

theorem refusedWhen.of_iff {P Q : Prop} {o : Host.Outcome State Fault Refusal} (h : refusedWhen P o) (hiff : Q ↔ P) :
    refusedWhen Q o := by rwa [refusedWhen, hiff]

/-- A refusal comes only where it is listed. -/
theorem refusedWhen.refused_iff {P : Prop} {o : Host.Outcome State Fault Refusal} (h : refusedWhen P o) :
    (∃ r, o = .refused r) ↔ P := by
  rcases h with ⟨hP, hr⟩ | ⟨hP, t, rfl⟩
  · exact iff_of_true hr hP
  · exact iff_of_false (by rintro ⟨r, hr⟩; cases hr) hP

theorem refusedWhen.notFault {P : Prop} {o : Host.Outcome State Fault Refusal} (h : refusedWhen P o) :
    notFault o = true := by
  rcases h with ⟨-, r, rfl⟩ | ⟨-, t, rfl⟩ <;> rfl

/-- The answer after a shared operation adds no refusal. -/
theorem refusedWhen.answered {P : Prop} {o : Host.Outcome State Fault Refusal} {s : State} {r : Result}
    (hc : s.constructed = true) (h : refusedWhen P o) :
    refusedWhen P (whenConstructed s (andThen o (finish r))) := by
  rw [whenConstructed_of hc]
  rcases h with ⟨hP, e, rfl⟩ | ⟨hP, t, rfl⟩
  · exact .inl ⟨hP, e, rfl⟩
  · exact .inr ⟨hP, _, rfl⟩

theorem updState_ne_idle {u : UpdState} : u ≠ .idle ↔ u = .updating := by cases u <;> simp

/-- BEGIN_UPDATE's effect is refused while Updating. -/
theorem openCycle_refusedWhen (s : State) : refusedWhen (s.updState = .updating) (openCycle s) := by
  cases hu : s.updState with
  | idle => exact .inr ⟨nofun, _, openCycle_idle hu⟩
  | updating => exact .inl ⟨rfl, _, openCycle_updating hu⟩

/-- END_UPDATE's effect is refused while Idle. -/
theorem closeCycle_refusedWhen (s : State) : refusedWhen (s.updState = .idle) (closeCycle s) := by
  cases hu : s.updState with
  | idle => exact .inl ⟨rfl, _, closeCycle_idle hu⟩
  | updating => exact .inr ⟨nofun, _, closeCycle_updating hu⟩

section Legal
variable {s : State}

/-- In a legal state a send is refused before a setup, without repetitions, and where it would begin a second cycle. -/
theorem sendRepeated_refusedWhen (hs : s.wf) (hc : s.constructed = true) (p : Packet) (n : Nat) :
    refusedWhen (s.setupDone = false ∨ n = 0 ∨ (s.updState = .updating ∧ s.autoUpdate = true))
      (sendRepeated p n s) := by
  cases hd : s.setupDone with
  | false => exact .inl ⟨.inl rfl, _, sendRepeated_beforeSetup p n hd⟩
  | true =>
    by_cases hn : n = 0
    · subst hn
      exact .inl ⟨.inr (.inl rfl), _, sendRepeated_zero p hd⟩
    · by_cases hnest : s.updState = .updating ∧ s.autoUpdate = true
      · obtain ⟨hu, ha⟩ := hnest
        exact .inl ⟨.inr (.inr ⟨hu, ha⟩), _, sendRepeated_nested hd hn ha hu⟩
      · have hi : s.autoUpdate = true → s.updState = .idle := fun ha => by
          by_contra hu
          exact hnest ⟨updState_ne_idle.1 hu, ha⟩
        obtain ⟨t, ht, -⟩ := sendRepeated_chain (p := p) ⟨sendReady_of_wf hs hc hd, hi⟩ hn
        exact .inr ⟨by simp [hn, hnest], t, ht⟩

/-- In a legal state a batch is refused while Updating, and before a setup unless it is empty. -/
theorem sendBatch_refusedWhen (hs : s.wf) (hc : s.constructed = true) (ps : List Packet) :
    refusedWhen ((s.setupDone = false ∧ ps ≠ []) ∨ s.updState = .updating) (sendBatch ps s) := by
  cases hu : s.updState with
  | updating => exact .inl ⟨.inr rfl, _, sendBatch_updating ps hu⟩
  | idle =>
    by_cases hps : ps = []
    · subst hps
      exact .inr ⟨by simp, _, sendBatch_nil hu⟩
    · cases hd : s.setupDone with
      | false => exact .inl ⟨.inl ⟨rfl, hps⟩, _, sendBatch_beforeSetup hu hd hps⟩
      | true =>
        obtain ⟨t, ht, -⟩ := sendBatch_sent (sendReady_of_wf hs hc hd) hu hps
        exact .inr ⟨by simp, t, ht⟩

/-- SET_TRACKING completes in every state after a NEW_CHAIN. -/
theorem exec_setTracking_completes (hc : s.constructed = true) (b : Bool) : ∃ t, exec (.setTracking b) s = .next t := by
  cases b with
  | false => exact ⟨_, exec_setTracking_false hc⟩
  | true =>
    cases ha : s.trkAlloc with
    | true => exact ⟨_, exec_setTracking_again hc ha⟩
    | false =>
      by_cases hcap : s.chainLen ≤ s.cfg.capacity
      · exact ⟨_, exec_setTracking_allocates hc ha hcap⟩
      · exact ⟨_, exec_setTracking_fails hc ha (by omega)⟩

/-- In a legal state the ring write finds its slot. -/
theorem exec_trkWrite_completes (hs : s.wf) (hc : s.constructed = true) (p : Packet) :
    ∃ t, exec (.trkWrite p) s = .next t := by
  have ⟨hlen, _⟩ := hs
  obtain ⟨hl, -⟩ := hlen hc
  cases he : s.trkEn with
  | false => exact ⟨_, exec_trkWrite_off hc he⟩
  | true =>
    obtain ⟨m, -, hex⟩ := exec_trkWrite_on (p := p) hc he hl (ringWhole_of_wf hs he)
    exact ⟨_, hex⟩

/-- In a legal state GET_STATE finds its slot. -/
theorem exec_getState_completes (hs : s.wf) (hc : s.constructed = true) (k : Nat) :
    ∃ t, exec (.getState k) s = .next t := by
  by_cases havail : s.chainLen ≤ k ∨ s.trkEn = false
  · exact ⟨_, exec_getState_unavailable hc havail⟩
  · obtain ⟨hk, he⟩ : k < s.chainLen ∧ s.trkEn = true := by simpa using havail
    obtain ⟨hkeys, -⟩ := ringWhole_of_wf hs he
    obtain ⟨p, hp⟩ := readPosition_exists hk hkeys
    exact ⟨_, exec_getState_on hc hk he hp⟩

/-- In a legal state SAVE_STATE finds all its slots. -/
theorem exec_saveState_completes (hs : s.wf) (hc : s.constructed = true) : ∃ t, exec .saveState s = .next t := by
  by_cases hempty : s.trkEn = false ∨ s.head = s.chainLen
  · exact ⟨_, exec_saveState_empty hc hempty⟩
  · obtain ⟨he, hh⟩ : s.trkEn = true ∧ s.head ≠ s.chainLen := by simpa using hempty
    obtain ⟨ps, hv⟩ := ringView_exists (ringWhole_of_wf hs he)
    exact ⟨_, exec_saveState_on hc he hh hv⟩

end Legal

/-! ## The closed list of refusals -/

/-- The closed list of 60_exceptions.md R148: when an operation is refused. -/
def listedRefusal (s : State) (i : Instr) : Prop :=
  (s.constructed = false ∧ ∀ n b, i ≠ .newChain n b)
  ∨ (∃ b, i = .newChain 0 b)
  ∨ (s.constructed = true ∧
      ((s.setupDone = false ∧ (sendsOne i = true
          ∨ ∃ ps, ps ≠ [] ∧ (i = .sendPackets ps ∨ i = .restoreState ps)))
      ∨ (∃ p, i = .sendPacket p 0)
      ∨ (∃ ps, i = .restoreState ps ∧ ps.length ≠ s.chainLen)
      ∨ (s.updState = .updating ∧ (i = .beginUpdate ∨ (∃ ps, i = .sendPackets ps ∨ i = .restoreState ps)
          ∨ (s.autoUpdate = true ∧ sendsOne i = true)))
      ∨ (s.updState = .idle ∧ i = .endUpdate)))

/-- NEW_CHAIN is refused for a length of 0 alone, in every state. -/
theorem exec_newChain_refusedWhen (n : Nat) (b : Bool) (s : State) :
    refusedWhen (listedRefusal s (.newChain n b)) (exec (.newChain n b) s) := by
  have hiff : listedRefusal s (.newChain n b) ↔ n = 0 := by simp [listedRefusal, sendsOne]
  refine refusedWhen.of_iff ?_ hiff
  change refusedWhen _ (execNewChain n b s)
  unfold execNewChain
  split
  · rename_i hn
    exact .inl ⟨hn, _, rfl⟩
  · rename_i hn
    exact .inr ⟨hn, _, rfl⟩

/-- RESTORE_STATE is refused for a wrong length, and as its batch is. -/
theorem exec_restoreState_refusedWhen {s : State} (hs : s.wf) (hc : s.constructed = true) (ps : List Packet) :
    refusedWhen ((s.setupDone = false ∧ ps ≠ []) ∨ ps.length ≠ s.chainLen ∨ s.updState = .updating)
      (exec (.restoreState ps) s) := by
  by_cases hlen : ps.length = s.chainLen
  · rw [exec_restoreState_eq hlen]
    refine ((sendBatch_refusedWhen hs hc ps.reverse).answered hc).of_iff ?_
    simp [hlen]
  · exact .inl ⟨.inr (.inl hlen), _, exec_restoreState_refused hc hlen⟩

/-- In a legal state an operation is refused exactly as listed, and completes otherwise. -/
theorem exec_refusedWhen_listed {s : State} (hs : s.wf) (i : Instr) : refusedWhen (listedRefusal s i) (exec i s) := by
  by_cases hi : ∃ n b, i = .newChain n b
  · obtain ⟨n, b, rfl⟩ := hi
    exact exec_newChain_refusedWhen n b s
  have hi : ∀ n b, i ≠ .newChain n b := fun n b h => hi ⟨n, b, h⟩
  by_cases hc : s.constructed = true
  case neg =>
    have hc : s.constructed = false := by simpa using hc
    exact .inl ⟨.inl ⟨hc, hi⟩, _, beforeResetRefused s i hc hi⟩
  have hnext : (∃ t, exec i s = .next t) → ¬ listedRefusal s i → refusedWhen (listedRefusal s i) (exec i s) :=
    fun ht hlist => .inr ⟨hlist, ht⟩
  cases i with
  | newChain n b => exact absurd rfl (hi n b)
  | pktPwm | pktCorr | buildPwm | buildCorr | rawValue | modeOf | pwmView | corrView | decodeView | getAuto | setup3
    | setup4 | setAuto | setEnabled | transmit =>
    exact hnext ⟨_, whenConstructed_of hc _⟩ (by simp [listedRefusal, hc, sendsOne])
  | setTracking b => exact hnext (exec_setTracking_completes hc b) (by simp [listedRefusal, hc, sendsOne])
  | trkWrite p => exact hnext (exec_trkWrite_completes hs hc p) (by simp [listedRefusal, hc, sendsOne])
  | getState k => exact hnext (exec_getState_completes hs hc k) (by simp [listedRefusal, hc, sendsOne])
  | saveState => exact hnext (exec_saveState_completes hs hc) (by simp [listedRefusal, hc, sendsOne])
  | beginUpdate =>
    exact ((openCycle_refusedWhen s).answered hc).of_iff (by simp [listedRefusal, hc, sendsOne])
  | endUpdate =>
    exact ((closeCycle_refusedWhen s).answered hc).of_iff (by simp [listedRefusal, hc, sendsOne])
  | restoreState ps =>
    exact (exec_restoreState_refusedWhen hs hc ps).of_iff (by simp [listedRefusal, hc, sendsOne])
  | sendPackets ps =>
    exact ((sendBatch_refusedWhen hs hc ps).answered hc).of_iff (by simp [listedRefusal, hc, sendsOne])
  | sendPacket p n =>
    exact ((sendRepeated_refusedWhen hs hc p n).answered hc).of_iff (by simp [listedRefusal, hc, sendsOne])
  | sendAll p =>
    have ⟨hlen, _⟩ := hs
    obtain ⟨hl, -⟩ := hlen hc
    refine ((sendRepeated_refusedWhen hs hc p s.chainLen).answered hc).of_iff ?_
    simp [listedRefusal, hc, sendsOne, Nat.one_le_iff_ne_zero.1 hl]
  | sendPwm a b c =>
    exact ((sendRepeated_refusedWhen hs hc (buildPwm a b c) 1).answered hc).of_iff
      (by simp [listedRefusal, hc, sendsOne])
  | sendCorr a b c m =>
    exact ((sendRepeated_refusedWhen hs hc (buildCorr a b c m) 1).answered hc).of_iff
      (by simp [listedRefusal, hc, sendsOne])

/-- Settles O45: what is not listed completes. -/
theorem refusedExactlyAsListed : Obligations.RefusedExactlyAsListed := by
  unfold Obligations.RefusedExactlyAsListed
  exact fun s i hs => (exec_refusedWhen_listed hs i).refused_iff

/-- Settles O54: what stands at the port is refused, or performed in a legal state, or a loss of power. -/
theorem stepNeverFaults : Obligations.StepNeverFaults := by
  unfold Obligations.StepNeverFaults
  intro s hs
  match hport : s.port with
  | [] => rw [nothingPresentedNothingHappens s hport]; rfl
  | .chainPowerLoss :: rest => rw [step_chainPowerLoss hport]; rfl
  | .blockPowerLoss :: rest => rw [step_blockPowerLoss hport]; rfl
  | .operation p :: rest =>
    cases hdec : decode s.cfg p with
    | error e => rw [step_undecoded hport hdec]; rfl
    | ok i =>
      rw [step_operation hport hdec]
      split
      · rfl
      · exact (exec_refusedWhen_listed (s := s.setPort rest) hs i).notFault

/-- Settles O14: each codec operation only answers, with a result made of its operands. -/
theorem codecIsPure : Obligations.CodecIsPure := by
  unfold Obligations.CodecIsPure
  intro i hi
  cases i with
  | pktPwm | pktCorr | buildPwm | buildCorr | rawValue | modeOf | pwmView | corrView | decodeView =>
    exact ⟨_, fun s hc => whenConstructed_finish hc _⟩
  | _ => cases hi

/-! ## The reset -/

/-- NEW_CHAIN of a positive length constructs the block, in every state. -/
theorem exec_newChain {n : Nat} (hn : n ≠ 0) (b : Bool) (s : State) :
    exec (.newChain n b) s = .next ((construct n b s).respond .done) := by
  change execNewChain n b s = _
  rw [execNewChain, if_neg hn]
  rfl

/-- Settles O29: the fields of the constructed state; the unknown registers are as many as are wired. -/
theorem newChainResets : Obligations.NewChainResets := by
  unfold Obligations.NewChainResets
  refine fun s n b => ⟨fun hn => ?_, rfl⟩
  have hcount : (construct n b s).sentCount < 2 ^ s.cfg.countW := Nat.mod_lt _ (Nat.two_pow_pos _)
  exact ⟨_, exec_newChain hn b s, rfl, rfl, rfl, rfl, rfl, rfl, rfl, rfl, rfl, rfl, rfl, hcount, rfl,
    by simp [construct, unknownShift], by simp [construct, unknownOut], rfl, rfl⟩

/-- Settles O52: each value of the reset table, by evaluation. -/
theorem resetStateIsLegal : Obligations.ResetStateIsLegal := by
  unfold Obligations.ResetStateIsLegal
  decide

end Sys2Proof.Machine
